-- ==== Sys2Proof/Word.lean ====
section
/-! DEFINITION. The widths the spec treats as bits (00_scope.md R8, R10): bytes, halfwords, words, addresses. -/

namespace Sys2Proof

/-- A byte of one of the four bus windows. -/
abbrev Byte := BitVec 8

/-- A halfword: a register, a palette colour, a line-buffer colour. -/
abbrev Half := BitVec 16

/-- A word: a reference-point register, the data of a bus transaction. -/
abbrev Word := BitVec 32

/-- A 32-bit bus address (20_memory.md R200). -/
abbrev Addr := BitVec 32

end Sys2Proof
end

