-- ==== Sys2Proof/Config.lean ====
section
/-! DEFINITION. What an implementation fixes and what the spec leaves open: the named parameters of 00_scope.md R7
and the free values. The constants without a body have no value that Lean could use, so a theorem about the model
holds for every choice of them. -/

namespace Sys2Proof.Config

/-- The `k`-th free value taken by `Draw()` (00_scope.md R9): an input under no law. The counter `draws` of the
state gives every draw an index of its own. A draw of fewer bits takes the low ones. DESIGN CHOICE, log entry 5. -/
opaque freeValue : Nat → Half

/-- How far the monotonic clock moves between two readings (60_exceptions.md R911): free. Log entry 7. -/
opaque clockStep : Nat → Nat

/-- The `k`-th reading of the monotonic clock: readings never decrease, nothing else is known of them. -/
def clockAt : Nat → Nat
  | 0 => clockStep 0
  | k + 1 => clockAt k + clockStep (k + 1)

/-- The parameter MODE4_GEOMETRY (00_scope.md R7, 92_eei_decisions.md D12): width less 1. Log entry 6. -/
opaque mode4WidthLess1 : Nat

/-- The parameter MODE4_GEOMETRY: height less 1. Log entry 6. -/
opaque mode4HeightLess1 : Nat

/-- MODE4_GEOMETRY `(W4, H4)`, any `W4 ≥ 1`, `H4 ≥ 1`. -/
def mode4Geometry : Nat × Nat := (mode4WidthLess1 + 1, mode4HeightLess1 + 1)

/-- The parameter T_VISIBLE less 1 (any positive duration, read by no rule: 92_eei_decisions.md D35). Log entry 7. -/
opaque tVisibleLess1 : Nat

/-- The parameter T_BLANK less 1 (any positive duration, read by no rule: 92_eei_decisions.md D35). Log entry 7. -/
opaque tBlankLess1 : Nat

/-- T_VISIBLE, the duration of a line's visible phase (41_timing_engine.md R508). -/
def tVisible : Nat := tVisibleLess1 + 1

/-- T_BLANK, the duration of a line's blank phase (41_timing_engine.md R510). -/
def tBlank : Nat := tBlankLess1 + 1

/-- SCREEN_W of 00_scope.md R6. -/
def screenW : Nat := 240

/-- SCREEN_H of 00_scope.md R6. -/
def screenH : Nat := 160

end Sys2Proof.Config
end

