-- ==== Sys2Proof/Syntax.lean ====
section
/-! DEFINITION. The operations of spec/opcode_table.json, one constructor per row (30_encoding.md R330). The
arguments of a constructor are the operands its rule lists, less what the rule reads from the state. A row whose
selecting word is a register that the rule goes on to read (DISPCNT, BGnCNT, BLDCNT) carries that word, as the
renderer takes it from the register: log entry 18. -/

namespace Sys2Proof

inductive Instr where
  /- BUS (40_register_interface.md) -/
  /-- RD8, R400. -/
  | rd8 (addr : Addr)
  /-- RD16, R401. -/
  | rd16 (addr : Addr)
  /-- RD32, R402. -/
  | rd32 (addr : Addr)
  /-- WR8, R403. -/
  | wr8 (addr : Addr) (data : Byte)
  /-- WR16, R404. -/
  | wr16 (addr : Addr) (data : Half)
  /-- WR32, R405. -/
  | wr32 (addr : Addr) (data : Word)
  /-- CAS32, R406. -/
  | cas32 (addr : Addr) (expected update : Word)
  /- CONFIG -/
  /-- ADDMON, R408: `slot` names the callback, the refresh of that slot (R410). -/
  | addmon (slot : BitVec 1) (base : Addr) (len : Word)
  /- LINE (41_timing_engine.md) -/
  /-- LINE_VISIBLE, R500: the line step of a line 0..159. -/
  | lineVisible
  /-- LINE_VBLANK_ENTRY, R505: the line step of line 160. -/
  | lineVblankEntry
  /-- LINE_VBLANK, R500: the line step of a line 161..227. -/
  | lineVblank
  /- SCRIPT (30_encoding.md R302) -/
  /-- LINE, R500: the Engine performs one line step. -/
  | line
  /-- STOP, R512: the host sets `stop_requested`. -/
  | stop
  /- DISPCNT: the line operations (42_backgrounds.md); `d` is the DISPCNT word -/
  /-- MODE0, R602. -/
  | mode0 (d : Half)
  /-- MODE1, R603. -/
  | mode1 (d : Half)
  /-- MODE2, R604. -/
  | mode2 (d : Half)
  /-- MODE3, R605. -/
  | mode3 (d : Half)
  /-- MODE4, R606. -/
  | mode4 (d : Half)
  /-- MODE5, R607. -/
  | mode5 (d : Half)
  /-- FBLANK_MODE6, R608. -/
  | fblankMode6 (d : Half)
  /-- MODE7, R609. -/
  | mode7 (d : Half)
  /-- FBLANK_BIT, R608. -/
  | fblankBit (d : Half)
  /- DISPCNT[6]: the sprite tile number (43_sprites.md); `deep` is attr0[13], so k = 2 when set and 1 otherwise -/
  /-- OBJ_MAP_2D, R710. -/
  | objMap2d (tile : BitVec 10) (deep : Bool) (tx ty : BitVec 6)
  /-- OBJ_MAP_1D, R709. -/
  | objMap1d (tile : BitVec 10) (w : Byte) (deep : Bool) (tx ty : BitVec 6)
  /- BGCNT: one background layer of the current line; `cnt` is the BGnCNT word -/
  /-- BG_TEXT_4BPP, R613. -/
  | bgText4bpp (n : BitVec 2) (cnt : Half)
  /-- BG_TEXT_8BPP, R614. -/
  | bgText8bpp (n : BitVec 2) (cnt : Half)
  /-- BG_AFFINE_CLIP, R617: slot `s` serves layer 2 + s (R623). -/
  | bgAffineClip (s : BitVec 1) (cnt : Half)
  /-- BG_AFFINE_WRAP, R618. -/
  | bgAffineWrap (s : BitVec 1) (cnt : Half)
  /- OAM_ATTR0[9:8]: the texel of a display-box position -/
  /-- OBJ_REGULAR, R706. -/
  | objRegular (a1 : Half) (w h bx ry : Byte)
  /-- OBJ_AFFINE, R707. -/
  | objAffine (a1 : Half) (w h bx ry : Byte)
  /-- OBJ_HIDDEN, R713. -/
  | objHidden
  /-- OBJ_AFFINE_DOUBLE, R716. -/
  | objAffineDouble (a1 : Half) (w h bx ry : Byte)
  /- OAM_ATTR0[11:10]: the write of an opaque sprite pixel of colour `c` at column `x` -/
  /-- OBJ_MODE_NORMAL, R717. -/
  | objModeNormal (x : Byte) (prio : BitVec 2) (c : BitVec 15)
  /-- OBJ_MODE_SEMI, R718. -/
  | objModeSemi (x : Byte) (prio : BitVec 2) (c : BitVec 15)
  /-- OBJ_MODE_WINDOW, R719. -/
  | objModeWindow (x : Byte) (prio : BitVec 2) (c : BitVec 15)
  /-- OBJ_MODE_PROHIBITED, R714. -/
  | objModeProhibited
  /- OAM_ATTR0[13]: the pixel of a texel -/
  /-- OBJ_4BPP, R711. -/
  | obj4bpp (a2 : Half) (w : Byte) (tx ty : BitVec 6)
  /-- OBJ_8BPP, R721. -/
  | obj8bpp (a2 : Half) (w : Byte) (tx ty : BitVec 6)
  /- OAM_ATTR0[15:14]: the box of a sprite; `size` is attr1[15:14] -/
  /-- OBJ_SHAPE_SQUARE, R703. -/
  | objShapeSquare (size : BitVec 2)
  /-- OBJ_SHAPE_HORIZONTAL, R703. -/
  | objShapeHorizontal (size : BitVec 2)
  /-- OBJ_SHAPE_VERTICAL, R703. -/
  | objShapeVertical (size : BitVec 2)
  /-- OBJ_SHAPE_PROHIBITED, R714. -/
  | objShapeProhibited
  /- BITMAP: one pixel of the bitmap; `frame` is DISPCNT[4] (R628) -/
  /-- BITMAP3, R625. -/
  | bitmap3 (ix iy : Word)
  /-- BITMAP4, R626. -/
  | bitmap4 (frame : BitVec 1) (ix iy : Word)
  /-- BITMAP5, R627. -/
  | bitmap5 (frame : BitVec 1) (ix iy : Word)
  /- BLDCNT: the effect of the pixel at column `x` of the current line (44_compositor.md); `bld` is the BLDCNT word -/
  /-- EFF_NONE, R809. -/
  | effNone (bld : Half) (x : Byte)
  /-- EFF_ALPHA, R810. -/
  | effAlpha (bld : Half) (x : Byte)
  /-- EFF_BRIGHTEN, R811. -/
  | effBrighten (bld : Half) (x : Byte)
  /-- EFF_DARKEN, R812. -/
  | effDarken (bld : Half) (x : Byte)
  /- PIXEL: per-pixel conditions at column `x` of the current line -/
  /-- EFF_FORCED_ALPHA, R808. -/
  | effForcedAlpha (x : Byte)
  /-- WIN_NONE, R805. -/
  | winNone (x : Byte)
  /-- WIN0, R804. -/
  | win0 (x : Byte)
  /-- WIN1, R816. -/
  | win1 (x : Byte)
  /-- WIN_OBJ, R803. -/
  | winObj (x : Byte)
  /-- WIN_OUT, R817. -/
  | winOut (x : Byte)
deriving DecidableEq, Repr

end Sys2Proof
end

