-- ==== Sys2Proof/WellFormed.lean ====
section
/-! DEFINITION. Which terms of `Instr` are operations of the table: the selecting bits of a carried register word
match the row (opcode_table.json match and mask), and a column of the compositor is on the screen. A sprite pixel off the
screen and a bitmap position outside the bitmap have the effect their rules give them (43_sprites.md R705,
42_backgrounds.md R624). -/

namespace Sys2Proof

/-- A screen column, 0..239 (00_scope.md R6, R11). -/
abbrev Instr.colOk (x : Byte) : Bool := x.toNat < 240

/-- The row's match under its mask 0x0087 (30_encoding.md R303). -/
abbrev Instr.modeOk (d : Half) (m : Half) : Bool := (d &&& 0x0087#16) == m

/-- The checks, one arm per constructor. -/
def Instr.wellFormed : Instr → Bool
  | .rd8 _ => true
  | .rd16 _ => true
  | .rd32 _ => true
  | .wr8 _ _ => true
  | .wr16 _ _ => true
  | .wr32 _ _ => true
  | .cas32 _ _ _ => true
  | .addmon _ _ _ => true
  | .lineVisible => true
  | .lineVblankEntry => true
  | .lineVblank => true
  | .line => true
  | .stop => true
  | .mode0 d => Instr.modeOk d 0#16
  | .mode1 d => Instr.modeOk d 1#16
  | .mode2 d => Instr.modeOk d 2#16
  | .mode3 d => Instr.modeOk d 3#16
  | .mode4 d => Instr.modeOk d 4#16
  | .mode5 d => Instr.modeOk d 5#16
  | .fblankMode6 d => Instr.modeOk d 6#16
  | .mode7 d => Instr.modeOk d 7#16
  | .fblankBit d => d.getLsbD 7
  | .objMap2d _ _ _ _ => true
  | .objMap1d _ _ _ _ _ => true
  | .bgText4bpp _ cnt => !cnt.getLsbD 7
  | .bgText8bpp _ cnt => cnt.getLsbD 7
  | .bgAffineClip _ cnt => !cnt.getLsbD 13
  | .bgAffineWrap _ cnt => cnt.getLsbD 13
  | .objRegular _ _ _ _ _ => true
  | .objAffine _ _ _ _ _ => true
  | .objHidden => true
  | .objAffineDouble _ _ _ _ _ => true
  | .objModeNormal _ _ _ => true
  | .objModeSemi _ _ _ => true
  | .objModeWindow _ _ _ => true
  | .objModeProhibited => true
  | .obj4bpp _ _ _ _ => true
  | .obj8bpp _ _ _ _ => true
  | .objShapeSquare _ => true
  | .objShapeHorizontal _ => true
  | .objShapeVertical _ => true
  | .objShapeProhibited => true
  | .bitmap3 _ _ => true
  | .bitmap4 _ _ _ => true
  | .bitmap5 _ _ _ => true
  | .effNone bld x => (bld &&& 0x00C0#16) == 0x0000#16 && Instr.colOk x
  | .effAlpha bld x => (bld &&& 0x00C0#16) == 0x0040#16 && Instr.colOk x
  | .effBrighten bld x => (bld &&& 0x00C0#16) == 0x0080#16 && Instr.colOk x
  | .effDarken bld x => (bld &&& 0x00C0#16) == 0x00C0#16 && Instr.colOk x
  | .effForcedAlpha x => Instr.colOk x
  | .winNone x => Instr.colOk x
  | .win0 x => Instr.colOk x
  | .win1 x => Instr.colOk x
  | .winObj x => Instr.colOk x
  | .winOut x => Instr.colOk x

/-- An operation of the table. -/
abbrev WellFormed (i : Instr) : Prop := i.wellFormed = true

end Sys2Proof
end

