-- ==== Sys2Proof/Decode.lean ====
section
/-! DEFINITION. The decoder and the encoder. The spec's own codes are kept where it has them: the 4-bit command code
of a bus transaction or script command (30_encoding.md R301, R302, R335), and the selecting bits of every register,
attribute or line-counter row (R303, R304, R312, R330). Those selecting words overlap between the formats of R300
(DISPCNT, BGCNT, OAM_ATTR0, BLDCNT are told apart by where they live), so a stored command carries its format: a
frame of 16 bytes, log entry 2. -/

namespace Sys2Proof

/-- Byte `k` of a word, byte 0 the least significant (20_memory.md R201). -/
def byteOf (w : Word) (k : Nat) : Byte := w.extractLsb' (8 * k) 8

/-- The word of four bytes, the most significant first. -/
def word4 (b3 b2 b1 b0 : Byte) : Word := b3 ++ b2 ++ b1 ++ b0

/-- Why a stored command is no operation of the table. -/
inductive DecodeError where
  /-- not 16 bytes long -/
  | frameLength (n : Nat)
  /-- no format has this tag -/
  | unknownFormat (tag : Byte)
  /-- command codes 0x3, 0x7, 0xE, 0xF: illegal (R335) -/
  | illegalCommand (sel : Half)
  /-- command codes 0x8, 0x9, 0xB: a compare-and-set of an unsupported width (R335) -/
  | unsupportedWidth (cmd : BitVec 4) (addr : Addr)
  /-- a line counter of 228 or more (R102) -/
  | lineOutOfRange (l : Half)
  /-- a column of 240 or more: no pixel of the compositor (44_compositor.md R800) -/
  | columnOutOfRange (x : Byte)
  /-- DISPCNT selects no bitmap mode (R304) -/
  | noBitmapMode (d : Half)
  /-- no row of the format PIXEL has this number -/
  | noPixelRow (sel : Half)
  /-- no row's match is exactly this word -/
  | noTableWord (sel : Half)
deriving DecidableEq, Repr

/-- A stored command: the selecting word, the format, and the operands. -/
structure Frame where
  /-- the selecting word of the row, as opcode_table.json numbers its bits -/
  sel : Half
  /-- the format -/
  tag : Byte
  /-- a small operand: slot, layer, width, column or size -/
  p : Byte
  /-- the bus address, or an operand of the row -/
  a : Word
  /-- the data (or the update), or an operand of the row -/
  b : Word
  /-- the expected value of a compare-and-set -/
  c : Word
deriving DecidableEq, Repr

/-- The 16 bytes of a frame, every field little-endian. -/
def Frame.bytes (f : Frame) : List Byte :=
  [f.sel.extractLsb' 0 8, f.sel.extractLsb' 8 8, f.tag, f.p,
   byteOf f.a 0, byteOf f.a 1, byteOf f.a 2, byteOf f.a 3,
   byteOf f.b 0, byteOf f.b 1, byteOf f.b 2, byteOf f.b 3,
   byteOf f.c 0, byteOf f.c 1, byteOf f.c 2, byteOf f.c 3]

/-- The frame of 16 bytes. -/
def frameOf? : List Byte → Option Frame
  | [s0, s1, tag, p, a0, a1, a2, a3, b0, b1, b2, b3, c0, c1, c2, c3] =>
    some { sel := s1 ++ s0, tag := tag, p := p, a := word4 a3 a2 a1 a0, b := word4 b3 b2 b1 b0, c := word4 c3 c2 c1 c0 }
  | _ => none

/-- The command codes of R302 and the treatment of the others in R335; a word of 16 or more is no 4-bit code. -/
def decodeCommand (f : Frame) : Except DecodeError Instr :=
  match f.sel.toNat with
  | 0x0 => .ok (.rd8 f.a)
  | 0x1 => .ok (.rd16 f.a)
  | 0x2 => .ok (.rd32 f.a)
  | 0x4 => .ok (.wr8 f.a (byteOf f.b 0))
  | 0x5 => .ok (.wr16 f.a (f.b.extractLsb' 0 16))
  | 0x6 => .ok (.wr32 f.a f.b)
  | 0x8 => .error (.unsupportedWidth 0x8#4 f.a)
  | 0x9 => .error (.unsupportedWidth 0x9#4 f.a)
  | 0xA => .ok (.cas32 f.a f.c f.b)
  | 0xB => .error (.unsupportedWidth 0xB#4 f.a)
  | 0xC => .ok .line
  | 0xD => .ok .stop
  | _ => .error (.illegalCommand f.sel)

/-- Format LINE: the row of a line counter (R330, R500). -/
def decodeLine (l : Half) : Except DecodeError Instr :=
  if l.toNat < 160 then .ok .lineVisible
  else if l.toNat = 160 then .ok .lineVblankEntry
  else if l.toNat < 228 then .ok .lineVblank
  else .error (.lineOutOfRange l)

/-- Format DISPCNT, the display-mode selector of R303: bit 7 takes precedence over bits 2:0. -/
def decodeMode (d : Half) : Instr :=
  if d.getLsbD 7 then .fblankBit d
  else
    match (d.extractLsb' 0 3).toNat with
    | 0 => .mode0 d
    | 1 => .mode1 d
    | 2 => .mode2 d
    | 3 => .mode3 d
    | 4 => .mode4 d
    | 5 => .mode5 d
    | 6 => .fblankMode6 d
    | _ => .mode7 d

/-- DISPCNT[6], the object mapping (R330). -/
def decodeObjMap (f : Frame) : Instr :=
  let tx := (byteOf f.b 0).extractLsb' 0 6
  let ty := (byteOf f.b 1).extractLsb' 0 6
  let deep := (byteOf f.b 2).getLsbD 0
  if f.sel.getLsbD 6 then .objMap1d (f.a.extractLsb' 0 10) f.p deep tx ty
  else .objMap2d (f.a.extractLsb' 0 10) deep tx ty

/-- BGnCNT[7] of a text layer (R304). -/
def decodeText (f : Frame) : Instr :=
  if f.sel.getLsbD 7 then .bgText8bpp (f.p.extractLsb' 0 2) f.sel else .bgText4bpp (f.p.extractLsb' 0 2) f.sel

/-- BGnCNT[13] of an affine layer (R304). -/
def decodeAffine (f : Frame) : Instr :=
  if f.sel.getLsbD 13 then .bgAffineWrap (f.p.extractLsb' 0 1) f.sel else .bgAffineClip (f.p.extractLsb' 0 1) f.sel

/-- attr0[9:8], the kind of a record (R312). -/
def decodeObjKind (f : Frame) : Instr :=
  let a1 := f.a.extractLsb' 0 16
  match (f.sel.extractLsb' 8 2).toNat with
  | 0 => .objRegular a1 (byteOf f.b 0) (byteOf f.b 1) (byteOf f.b 2) (byteOf f.b 3)
  | 1 => .objAffine a1 (byteOf f.b 0) (byteOf f.b 1) (byteOf f.b 2) (byteOf f.b 3)
  | 2 => .objHidden
  | _ => .objAffineDouble a1 (byteOf f.b 0) (byteOf f.b 1) (byteOf f.b 2) (byteOf f.b 3)

/-- The row that the other bits of attr0 select, of a record that is not hidden; a hidden record reads no further field,
so there it is OBJ_HIDDEN (43_sprites.md R713). -/
def shownRecord (a0 : Half) (i : Instr) : Instr := if a0.extractLsb' 8 2 = 2#2 then .objHidden else i

/-- A row of the compositor acts at a screen column (44_compositor.md R800). -/
def onColumn (x : Byte) (i : Instr) : Except DecodeError Instr :=
  if x.toNat < 240 then .ok i else .error (.columnOutOfRange x)

/-- attr0[11:10], the sprite mode (R312). -/
def decodeObjMode (f : Frame) : Instr :=
  let prio := f.a.extractLsb' 0 2
  let c := f.b.extractLsb' 0 15
  match (f.sel.extractLsb' 10 2).toNat with
  | 0 => .objModeNormal f.p prio c
  | 1 => .objModeSemi f.p prio c
  | 2 => .objModeWindow f.p prio c
  | _ => .objModeProhibited

/-- attr0[13], the palette mode (R311). -/
def decodeObjDepth (f : Frame) : Instr :=
  let a2 := f.a.extractLsb' 0 16
  let tx := (byteOf f.b 0).extractLsb' 0 6
  let ty := (byteOf f.b 1).extractLsb' 0 6
  if f.sel.getLsbD 13 then .obj8bpp a2 f.p tx ty else .obj4bpp a2 f.p tx ty

/-- attr0[15:14], the shape (R312). -/
def decodeObjShape (f : Frame) : Instr :=
  let size := f.p.extractLsb' 0 2
  match (f.sel.extractLsb' 14 2).toNat with
  | 0 => .objShapeSquare size
  | 1 => .objShapeHorizontal size
  | 2 => .objShapeVertical size
  | _ => .objShapeProhibited

/-- DISPCNT.MODE with FBLANK = 0, the bitmap pixel rules of layer 2 (R304, R309), at any position (R624). -/
def decodeBitmap (f : Frame) : Except DecodeError Instr :=
  let frame := f.sel.extractLsb' 4 1
  if f.sel.getLsbD 7 then .error (.noBitmapMode f.sel)
  else
    match (f.sel.extractLsb' 0 3).toNat with
    | 3 => .ok (.bitmap3 f.a f.b)
    | 4 => .ok (.bitmap4 frame f.a f.b)
    | 5 => .ok (.bitmap5 frame f.a f.b)
    | _ => .error (.noBitmapMode f.sel)

/-- BLDCNT[7:6], the effect (10_state.md R123). -/
def decodeEffect (f : Frame) : Except DecodeError Instr :=
  match (f.sel.extractLsb' 6 2).toNat with
  | 0 => onColumn f.p (.effNone f.sel f.p)
  | 1 => onColumn f.p (.effAlpha f.sel f.p)
  | 2 => onColumn f.p (.effBrighten f.sel f.p)
  | _ => onColumn f.p (.effDarken f.sel f.p)

/-- Format PIXEL has no bits in the table; the row number is the model's own (log entry 2). -/
def decodePixel (f : Frame) : Except DecodeError Instr :=
  match f.sel.toNat with
  | 0 => onColumn f.p (.winNone f.p)
  | 1 => onColumn f.p (.win0 f.p)
  | 2 => onColumn f.p (.win1 f.p)
  | 3 => onColumn f.p (.winObj f.p)
  | 4 => onColumn f.p (.winOut f.p)
  | 5 => onColumn f.p (.effForcedAlpha f.p)
  | _ => .error (.noPixelRow f.sel)

/-- The operation of a frame whose format is `tag`. -/
def decodeAs (tag : Nat) (f : Frame) : Except DecodeError Instr :=
  match tag with
  | 0 => decodeCommand f
  | 1 => .ok (.addmon (f.p.extractLsb' 0 1) f.a f.b)
  | 2 => decodeLine f.sel
  | 3 => .ok (decodeMode f.sel)
  | 4 => .ok (decodeObjMap f)
  | 5 => .ok (decodeText f)
  | 6 => .ok (decodeAffine f)
  | 7 => .ok (decodeObjKind f)
  | 8 => .ok (shownRecord f.sel (decodeObjMode f))
  | 9 => .ok (shownRecord f.sel (decodeObjDepth f))
  | 10 => .ok (shownRecord f.sel (decodeObjShape f))
  | 11 => decodeBitmap f
  | 12 => decodeEffect f
  | 13 => decodePixel f
  | _ => .error (.unknownFormat f.tag)

/-- The format of a word of the table that stands alone, without its format: the row whose match is exactly this
word. Where rows of several formats have the same match, the first of them in the order the list gives (log
entry 3). -/
def loneTag (sel : Half) : Option Nat :=
  match sel.toNat with
  | 0x0001 => some 3
  | 0x0002 => some 3
  | 0x0003 => some 3
  | 0x0004 => some 3
  | 0x0005 => some 3
  | 0x0006 => some 3
  | 0x0007 => some 3
  | 0x0040 => some 4
  | 0x0080 => some 3
  | 0x00C0 => some 12
  | 0x0000 => some 7
  | 0x0100 => some 7
  | 0x0200 => some 7
  | 0x0300 => some 7
  | 0x0400 => some 8
  | 0x0800 => some 8
  | 0x0C00 => some 8
  | 0x2000 => some 6
  | 0x4000 => some 10
  | 0x8000 => some 10
  | 0xC000 => some 10
  | _ => none

/-- The operation of a frame; tag 14 marks a lone word of the table. -/
def decodeFrame (f : Frame) : Except DecodeError Instr :=
  if f.tag = 14#8 then
    match loneTag f.sel with
    | some t => decodeAs t f
    | none => .error (.noTableWord f.sel)
  else decodeAs f.tag.toNat f

/-- The operation that bytes stand for: total, rejecting by name. -/
def decode (bytes : List Byte) : Except DecodeError Instr :=
  match frameOf? bytes with
  | some f => decodeFrame f
  | none => .error (.frameLength bytes.length)

/-- A frame with no operands. -/
def bareFrame (tag : Byte) (sel : Half) : Frame := { sel := sel, tag := tag, p := 0#8, a := 0#32, b := 0#32, c := 0#32 }

/-- A bus transaction as the tuple of R301. -/
def busFrame (cmd : Half) (addr data expected : Word) : Frame :=
  { sel := cmd, tag := 0#8, p := 0#8, a := addr, b := data, c := expected }

/-- The frame of an operation: its row's selecting word, its format and its operands. -/
def encodeFrame : Instr → Frame
  | .rd8 a => busFrame 0x0#16 a 0#32 0#32
  | .rd16 a => busFrame 0x1#16 a 0#32 0#32
  | .rd32 a => busFrame 0x2#16 a 0#32 0#32
  | .wr8 a v => busFrame 0x4#16 a (word4 0#8 0#8 0#8 v) 0#32
  | .wr16 a v => busFrame 0x5#16 a (0#16 ++ v) 0#32
  | .wr32 a v => busFrame 0x6#16 a v 0#32
  | .cas32 a e u => busFrame 0xA#16 a u e
  | .addmon s base len => { sel := 0#16, tag := 1#8, p := 0#7 ++ s, a := base, b := len, c := 0#32 }
  | .lineVisible => bareFrame 2#8 0#16
  | .lineVblankEntry => bareFrame 2#8 160#16
  | .lineVblank => bareFrame 2#8 161#16
  | .line => busFrame 0xC#16 0#32 0#32 0#32
  | .stop => busFrame 0xD#16 0#32 0#32 0#32
  | .mode0 d => bareFrame 3#8 d
  | .mode1 d => bareFrame 3#8 d
  | .mode2 d => bareFrame 3#8 d
  | .mode3 d => bareFrame 3#8 d
  | .mode4 d => bareFrame 3#8 d
  | .mode5 d => bareFrame 3#8 d
  | .fblankMode6 d => bareFrame 3#8 d
  | .mode7 d => bareFrame 3#8 d
  | .fblankBit d => bareFrame 3#8 d
  | .objMap2d t deep tx ty =>
    { sel := 0#16, tag := 4#8, p := 0#8, a := 0#22 ++ t,
      b := word4 0#8 (0#7 ++ BitVec.ofBool deep) (0#2 ++ ty) (0#2 ++ tx), c := 0#32 }
  | .objMap1d t w deep tx ty =>
    { sel := 0x40#16, tag := 4#8, p := w, a := 0#22 ++ t,
      b := word4 0#8 (0#7 ++ BitVec.ofBool deep) (0#2 ++ ty) (0#2 ++ tx), c := 0#32 }
  | .bgText4bpp n cnt => { sel := cnt, tag := 5#8, p := 0#6 ++ n, a := 0#32, b := 0#32, c := 0#32 }
  | .bgText8bpp n cnt => { sel := cnt, tag := 5#8, p := 0#6 ++ n, a := 0#32, b := 0#32, c := 0#32 }
  | .bgAffineClip s cnt => { sel := cnt, tag := 6#8, p := 0#7 ++ s, a := 0#32, b := 0#32, c := 0#32 }
  | .bgAffineWrap s cnt => { sel := cnt, tag := 6#8, p := 0#7 ++ s, a := 0#32, b := 0#32, c := 0#32 }
  | .objRegular a1 w h bx ry =>
    { sel := 0x0000#16, tag := 7#8, p := 0#8, a := 0#16 ++ a1, b := word4 ry bx h w, c := 0#32 }
  | .objAffine a1 w h bx ry =>
    { sel := 0x0100#16, tag := 7#8, p := 0#8, a := 0#16 ++ a1, b := word4 ry bx h w, c := 0#32 }
  | .objHidden => bareFrame 7#8 0x0200#16
  | .objAffineDouble a1 w h bx ry =>
    { sel := 0x0300#16, tag := 7#8, p := 0#8, a := 0#16 ++ a1, b := word4 ry bx h w, c := 0#32 }
  | .objModeNormal x prio c =>
    { sel := 0x0000#16, tag := 8#8, p := x, a := 0#30 ++ prio, b := 0#17 ++ c, c := 0#32 }
  | .objModeSemi x prio c =>
    { sel := 0x0400#16, tag := 8#8, p := x, a := 0#30 ++ prio, b := 0#17 ++ c, c := 0#32 }
  | .objModeWindow x prio c =>
    { sel := 0x0800#16, tag := 8#8, p := x, a := 0#30 ++ prio, b := 0#17 ++ c, c := 0#32 }
  | .objModeProhibited => bareFrame 8#8 0x0C00#16
  | .obj4bpp a2 w tx ty =>
    { sel := 0x0000#16, tag := 9#8, p := w, a := 0#16 ++ a2, b := word4 0#8 0#8 (0#2 ++ ty) (0#2 ++ tx), c := 0#32 }
  | .obj8bpp a2 w tx ty =>
    { sel := 0x2000#16, tag := 9#8, p := w, a := 0#16 ++ a2, b := word4 0#8 0#8 (0#2 ++ ty) (0#2 ++ tx), c := 0#32 }
  | .objShapeSquare size => { sel := 0x0000#16, tag := 10#8, p := 0#6 ++ size, a := 0#32, b := 0#32, c := 0#32 }
  | .objShapeHorizontal size => { sel := 0x4000#16, tag := 10#8, p := 0#6 ++ size, a := 0#32, b := 0#32, c := 0#32 }
  | .objShapeVertical size => { sel := 0x8000#16, tag := 10#8, p := 0#6 ++ size, a := 0#32, b := 0#32, c := 0#32 }
  | .objShapeProhibited => bareFrame 10#8 0xC000#16
  | .bitmap3 ix iy => { sel := 3#16, tag := 11#8, p := 0#8, a := ix, b := iy, c := 0#32 }
  | .bitmap4 frame ix iy => { sel := 0#11 ++ frame ++ 4#4, tag := 11#8, p := 0#8, a := ix, b := iy, c := 0#32 }
  | .bitmap5 frame ix iy => { sel := 0#11 ++ frame ++ 5#4, tag := 11#8, p := 0#8, a := ix, b := iy, c := 0#32 }
  | .effNone bld x => { sel := bld, tag := 12#8, p := x, a := 0#32, b := 0#32, c := 0#32 }
  | .effAlpha bld x => { sel := bld, tag := 12#8, p := x, a := 0#32, b := 0#32, c := 0#32 }
  | .effBrighten bld x => { sel := bld, tag := 12#8, p := x, a := 0#32, b := 0#32, c := 0#32 }
  | .effDarken bld x => { sel := bld, tag := 12#8, p := x, a := 0#32, b := 0#32, c := 0#32 }
  | .effForcedAlpha x => { sel := 5#16, tag := 13#8, p := x, a := 0#32, b := 0#32, c := 0#32 }
  | .winNone x => { sel := 0#16, tag := 13#8, p := x, a := 0#32, b := 0#32, c := 0#32 }
  | .win0 x => { sel := 1#16, tag := 13#8, p := x, a := 0#32, b := 0#32, c := 0#32 }
  | .win1 x => { sel := 2#16, tag := 13#8, p := x, a := 0#32, b := 0#32, c := 0#32 }
  | .winObj x => { sel := 3#16, tag := 13#8, p := x, a := 0#32, b := 0#32, c := 0#32 }
  | .winOut x => { sel := 4#16, tag := 13#8, p := x, a := 0#32, b := 0#32, c := 0#32 }

/-- The bytes of an operation. -/
def encode (i : Instr) : List Byte := (encodeFrame i).bytes

/-- The frame of a word of the table with every operand zero: a command when the word fits the 4-bit command field of
a row of one byte, a lone word otherwise (log entry 3). -/
def tableFrame (nbits w : Nat) : Frame :=
  if nbits ≤ 8 ∧ w < 16 then bareFrame 0#8 (BitVec.ofNat 16 w) else bareFrame 14#8 (BitVec.ofNat 16 w)

/-- What the decoder reads from the table's word `w` of `nbits` bits. -/
def decodeTableWord (nbits w : Nat) : Option Instr := (decode (tableFrame nbits w).bytes).toOption

end Sys2Proof
end

