-- ==== Sys2Proof/Machine/State.lean ====
section
/-! DEFINITION. The state of the block: every piece of 10_state.md, as plain data, and the state right after
construction (R160, 70_reset_and_hazards.md R1000). The fields from `schedule` on are the model's own: what moves
next, the counters of free values, and the results of operations executed on their own. -/

namespace Sys2Proof.Machine

/-- The bytes of the four bus windows (20_memory.md R200) at their bus addresses: addresses strictly rising, no entry
equal to 0, which is what an unlisted address reads as (10_state.md R160: all contents zero). -/
abbrev Memory := List Host.Cell

/-- The Engine's position within the line step (10_state.md R136, 41_timing_engine.md R500). -/
inductive Phase where
  | s1 | s2 | s3 | s4 | s5 | s6 | s7 | s8 | s9
deriving DecidableEq, Repr

/-- An affine accumulator pair (10_state.md R130): 28-bit two's complement, in 1/256 pixel. -/
structure Acc where
  x : BitVec 28
  y : BitVec 28
deriving DecidableEq, Repr

/-- A sprite info entry of line buffer 5 (10_state.md R132). -/
structure Info where
  prio : BitVec 2
  mode : BitVec 2
  semi : Bool
deriving DecidableEq, Repr

/-- A monitor entry (10_state.md R151): the callback is the refresh of `slot` (40_register_interface.md R410). -/
structure Monitor where
  base : Addr
  len : Word
  slot : BitVec 1
deriving DecidableEq, Repr

/-- The interrupt sources of 60_exceptions.md R903. -/
inductive IrqSource where
  | lcdHblank | lcdVblank | lcdVcounterMatch
deriving DecidableEq, Repr

/-- The DMA signals of 60_exceptions.md R915. -/
inductive DmaSignal where
  | hblank | vblank
deriving DecidableEq, Repr

/-- An entry of the output-event trace (10_state.md R139). -/
inductive Event where
  | requestInterrupt (src : IrqSource)
  | signal (sig : DmaSignal)
  | frameReady (n : Nat)
deriving DecidableEq, Repr

/-- An entry of the fault record (10_state.md R138), with the info of 60_exceptions.md R901. -/
inductive StoreFault where
  /-- code 1 -/
  | misaligned (addr : Addr) (width : Nat)
  /-- code 2 -/
  | width (addr : Addr) (cmd : BitVec 4)
deriving DecidableEq, Repr

/-- What the last bus transaction returned to its agent (30_encoding.md R301); the model's own (log entry 14). -/
inductive Response where
  | noValue
  | value (v : Word)
  | flag (b : Bool)
deriving DecidableEq, Repr

/-- A texel position of a display box (43_sprites.md R706, R707); the model's own (log entry 12). -/
structure Texel where
  ok : Bool
  tx : Int
  ty : Int
deriving DecidableEq, Repr

/-- One entry of the schedule (log entry 1): which agent moves, with what. -/
inductive Input where
  /-- the bus agent or the host gives a command of the script (30_encoding.md R340, 70_reset_and_hazards.md R1005) -/
  | command (bytes : List Byte)
  /-- the block performs one other operation of the table on its own: no move of the bus agent, of the host or of the
  Presenter, and none of a run; the model's way to perform a row alone (log entry 12) -/
  | operation (bytes : List Byte)
  /-- the Engine takes its next sub-step -/
  | engine
  /-- the Presenter waits until the frame-ready counter exceeds the value it last consumed (R134) -/
  | presenterWait
  /-- the Presenter, after a wait, reads the frame-buffer pixel of row y, column x (60_exceptions.md R913) -/
  | presenterRead (y : Fin 160) (x : Fin 240)
deriving DecidableEq, Repr

/-- The stops of a step that are faults: none. The one exception of the block is taken as a next state (60_exceptions.md
R901, R908), and no step of the machine ends in a fault. -/
inductive Fault
deriving DecidableEq, Repr

/-- The stops of a step that are refusals. What the model gives no meaning is refused as 60_exceptions.md R902 says, by
the refusal mark of the state, and the machine goes on. -/
inductive Refusal where
  /-- Raised by an arm of `exec` for an instruction without a meaning, of which there is none. Safe. -/
  | notModelled (mnemonic : String)
deriving DecidableEq, Repr

/-- The state of the block. -/
structure State where
  /-- the register file, palette RAM, VRAM and OAM (R110, R140, R141, R142) -/
  mem : Memory
  /-- the line counter L (R102) -/
  line : BitVec 8
  /-- the Engine's phase (R136) -/
  phase : Phase
  /-- the clock reading at which the current line began (R136) -/
  tLine : Nat
  /-- the Engine has not stopped (R135) -/
  running : Bool
  /-- the shutdown flag (R135) -/
  stopRequested : Bool
  /-- the frame-ready counter (R134) -/
  framesReady : Nat
  /-- accumulators of slot 0, layer BG2 (R130) -/
  acc0 : Acc
  /-- accumulators of slot 1, layer BG3 (R130) -/
  acc1 : Acc
  /-- line buffer 0: BG0 (R131) -/
  lb0 : List Half
  /-- line buffer 1: BG1 -/
  lb1 : List Half
  /-- line buffer 2: BG2 -/
  lb2 : List Half
  /-- line buffer 3: BG3 -/
  lb3 : List Half
  /-- line buffer 4: sprite colours -/
  lb4 : List Half
  /-- line buffer 5: sprite info (R132) -/
  lb5 : List Info
  /-- the frame buffer, a list of rows (R133) -/
  fb : List (List Half)
  /-- the monitor list (R151) -/
  monitors : List Monitor
  /-- the output-event trace (R139) -/
  events : List Event
  /-- the fault record (R138) -/
  faults : List StoreFault
  /-- the refusal mark (R137) -/
  refused : Bool
  /-- the Presenter's consumed-frame count (R134, R913) -/
  consumed : Nat
  /-- the pixel the Presenter last read (R914; log entry 15) -/
  presented : Half
  /-- what moves next (log entry 1) -/
  schedule : List Input
  /-- how many draws have been taken (log entry 5) -/
  draws : Nat
  /-- how many clock readings have been taken (log entry 7) -/
  clockReads : Nat
  /-- what the last bus transaction returned (log entry 14) -/
  response : Response
  /-- result of an OBJ_SHAPE operation: w and h (log entry 12) -/
  box : Nat × Nat
  /-- result of an OBJ_REGULAR, OBJ_AFFINE or OBJ_AFFINE_DOUBLE operation -/
  texel : Texel
  /-- result of an OBJ_MAP operation -/
  tileNum : BitVec 10
  /-- result of an OBJ_4BPP or OBJ_8BPP operation: palette index and colour -/
  objPixel : Byte × Half
  /-- result of a BITMAP operation -/
  bmpPixel : Half
  /-- result of a WIN operation: the layer mask -/
  winMask : BitVec 5
  /-- result of a WIN operation: the effects flag -/
  winFx : Bool
deriving DecidableEq, Repr

/-- The state right after construction (R160, R1000, R1002). The values of the line buffers and of the model's own
fields are choices of the model: log entries 1, 5, 7, 10, 12, 14, 15. -/
def State.reset : State where
  mem := []
  line := 0#8
  phase := .s1
  tLine := 0
  running := true
  stopRequested := false
  framesReady := 0
  acc0 := { x := 0#28, y := 0#28 }
  acc1 := { x := 0#28, y := 0#28 }
  lb0 := List.replicate 240 0x8000#16
  lb1 := List.replicate 240 0x8000#16
  lb2 := List.replicate 240 0x8000#16
  lb3 := List.replicate 240 0x8000#16
  lb4 := List.replicate 240 0x8000#16
  lb5 := List.replicate 240 { prio := 3#2, mode := 0#2, semi := false }
  fb := List.replicate 160 (List.replicate 240 0#16)
  monitors := [{ base := 0x04000028#32, len := 8#32, slot := 0#1 }, { base := 0x04000038#32, len := 8#32, slot := 1#1 }]
  events := []
  faults := []
  refused := false
  consumed := 0
  presented := 0#16
  schedule := []
  draws := 0
  clockReads := 0
  response := .noValue
  box := (0, 0)
  texel := { ok := false, tx := 0, ty := 0 }
  tileNum := 0#10
  objPixel := (0#8, 0#16)
  bmpPixel := 0x8000#16
  winMask := 0b11111#5
  winFx := true

end Sys2Proof.Machine
end

