-- ==== Sys2Proof/Machine/Ops.lean ====
section
/-! DEFINITION. The named operations over memory, registers and buffers that the meanings share: byte memory in its
canonical form, little-endian loads and stores, the bus windows, write protection, monitors, the two exceptions of the
block (StoreFault and Refuse), the accumulators, the line and frame buffers, the event trace, the clock. -/

namespace Sys2Proof.Machine

/-- The outcome of one step of this machine. -/
abbrev Outcome := Host.Outcome State Fault Refusal

/-! ## Byte memory -/

/-- The canonical form: addresses strictly rising, no entry that an unlisted address would read as. -/
abbrev Memory.wf (m : Memory) : Prop := m.Pairwise (fun c d => c.1 < d.1) ∧ ∀ c ∈ m, c.2 ≠ 0#8

/-- The byte at bus address `a`; an unlisted byte is 0, the reset contents of 10_state.md R160. -/
def Memory.read : Memory → Nat → Byte
  | [], _ => 0#8
  | (k, b) :: rest, a => if k = a then b else Memory.read rest a

/-- Store one byte, keeping the canonical form. -/
def Memory.write : Memory → Nat → Byte → Memory
  | [], a, b => if b = 0#8 then [] else [(a, b)]
  | (k, c) :: rest, a, b =>
    if a < k then (if b = 0#8 then (k, c) :: rest else (a, b) :: (k, c) :: rest)
    else if a = k then (if b = 0#8 then rest else (a, b) :: rest)
    else (k, c) :: Memory.write rest a b

/-- The access widths of 20_memory.md R204. -/
inductive Width where
  | byte | half | word
deriving DecidableEq, Repr

/-- A width in bytes. -/
def widthBytes : Width → Nat
  | .byte => 1
  | .half => 2
  | .word => 4

/-- `{byte[a+1], byte[a]}` (20_memory.md R201). -/
def Memory.load16 (m : Memory) (a : Nat) : Half := m.read (a + 1) ++ m.read a

/-- `{byte[a+3], byte[a+2], byte[a+1], byte[a]}` (20_memory.md R201). -/
def Memory.load32 (m : Memory) (a : Nat) : Word := word4 (m.read (a + 3)) (m.read (a + 2)) (m.read (a + 1)) (m.read a)

/-- MemRead of 00_scope.md R9 at a width, zero-extended to a word. -/
def Memory.load (m : Memory) (a : Nat) : Width → Word
  | .byte => word4 0#8 0#8 0#8 (m.read a)
  | .half => word4 0#8 0#8 (m.read (a + 1)) (m.read a)
  | .word => m.load32 a

/-- MemWrite of 00_scope.md R9 at a width: the low bytes of `v`, little-endian. -/
def Memory.store (m : Memory) (a : Nat) (w : Width) (v : Word) : Memory :=
  match w with
  | .byte => m.write a (byteOf v 0)
  | .half => (m.write a (byteOf v 0)).write (a + 1) (byteOf v 1)
  | .word =>
    (((m.write a (byteOf v 0)).write (a + 1) (byteOf v 1)).write (a + 2) (byteOf v 2)).write (a + 3) (byteOf v 3)

/-! ## The bus windows (20_memory.md R200) -/

inductive Space where
  | io | pal | vram | oam
deriving DecidableEq, Repr

/-- The bus address of a window. -/
def spaceBase : Space → Nat
  | .io => 0x04000000
  | .pal => 0x05000000
  | .vram => 0x06000000
  | .oam => 0x07000000

/-- The size of a window in bytes. -/
def spaceSize : Space → Nat
  | .io => 0x60
  | .pal => 0x400
  | .vram => 0x18000
  | .oam => 0x400

/-- Bytes `a` to `a + n - 1` all lie in the window. -/
def inSpace (sp : Space) (a n : Nat) : Bool := decide (spaceBase sp ≤ a) && decide (a + n ≤ spaceBase sp + spaceSize sp)

/-- `in_window(addr, n)` of 40_register_interface.md: all the bytes lie in one window. -/
def inWindow (a n : Nat) : Bool := inSpace .io a n || inSpace .pal a n || inSpace .vram a n || inSpace .oam a n

/-! ## Registers (10_state.md R110): views of the IO bytes -/

/-- The bus address of an I/O offset. -/
def ioAddr (off : Nat) : Nat := 0x04000000 + off

/-- `Reg16(off)` of 00_scope.md R9. -/
def reg16 (m : Memory) (off : Nat) : Half := m.load16 (ioAddr off)

/-- `Reg32(off)` of 00_scope.md R9. -/
def reg32 (m : Memory) (off : Nat) : Word := m.load32 (ioAddr off)

/-- The line snapshot of 10_state.md R152: a copy of the register file, palette RAM, VRAM and OAM. S3 is one step, so
the copy lives only as the argument `m` of the render functions. -/
def snapshot (s : State) : Memory := s.mem

/-! ## Free values (00_scope.md R9: Draw) -/

/-- The halfword of draw number `k`. -/
def draw16 (k : Nat) : Half := Config.freeValue k

/-- The byte of draw number `k`. -/
def draw8 (k : Nat) : Byte := (Config.freeValue k).extractLsb' 0 8

/-- A row of 15-bit draws, `zext_16(Draw()[14:0])` in each column (42_backgrounds.md R609, 43_sprites.md R714). -/
def drawRow (base : Nat) : List Half := (List.range 240).map fun x => draw16 (base + x) &&& 0x7FFF#16

/-- Take `n` draws. -/
def takeDraws (n : Nat) (s : State) : State := { s with draws := s.draws + n }

/-! ## Renderer reads (20_memory.md R209, R210) -/

/-- `VRAM8(off)`: the snapshot's byte inside VRAM, draw number `k` outside. -/
def vram8 (m : Memory) (off k : Nat) : Byte := if off + 1 ≤ 0x18000 then m.read (0x06000000 + off) else draw8 k

/-- `VRAM16(off)`: the snapshot's halfword inside VRAM, draw number `k` outside. -/
def vram16 (m : Memory) (off k : Nat) : Half := if off + 2 ≤ 0x18000 then m.load16 (0x06000000 + off) else draw16 k

/-- `PAL16(i) & 0x7FFF`, the colour of palette index `i` (R210, 42_backgrounds.md R629). -/
def palColour (m : Memory) (i : Nat) : Half := m.load16 (0x05000000 + 2 * i) &&& 0x7FFF#16

/-- `OAM16(off)` (R210). -/
def oam16 (m : Memory) (off : Nat) : Half := m.load16 (0x07000000 + off)

/-- `TRANSPARENT` of 00_scope.md R10. -/
def transparent : Half := 0x8000#16

/-! ## The event trace, the fault record, the refusal mark -/

/-- Append an entry to the output-event trace (10_state.md R139). -/
def emit (e : Event) (s : State) : State := { s with events := s.events ++ [e] }

/-- Append an entry if a condition holds. -/
def emitIf (c : Bool) (e : Event) (s : State) : State := if c then emit e s else s

/-- Set what the transaction returned to its agent. -/
def respond (r : Response) (s : State) : State := { s with response := r }

/-- Taking the one exception of the block (60_exceptions.md R901): no byte written, no monitor run, no value returned,
the info appended to the fault record. The block has no trap entry and no return (R908, R909); the issuing agent owns
the fault and everything else goes on. -/
def raiseStoreFault (f : StoreFault) (s : State) : State := respond .noValue { s with faults := s.faults ++ [f] }

/-- `Refuse` (60_exceptions.md R902): the refusal mark is set and the transaction does nothing else. -/
def refuse (s : State) : State := respond .noValue { s with refused := true }

/-- The cause code of a StoreFault (60_exceptions.md R901). -/
def storeFaultCode : StoreFault → Nat
  | .misaligned _ _ => 1
  | .width _ _ => 2

/-- The checks a transaction of a supported width makes, in the order of 60_exceptions.md R907: outside the windows
refuses, then misaligned raises StoreFault; `k` is the transaction itself. -/
def busChecked (addr : Addr) (w : Width) (k : State → State) (s : State) : State :=
  if !inWindow addr.toNat (widthBytes w) then refuse s
  else if addr.toNat % widthBytes w ≠ 0 then raiseStoreFault (.misaligned addr (widthBytes w)) s
  else k s

/-! ## Accumulators (10_state.md R130) -/

/-- `acc[s]`. -/
def accOf (s : State) (slot : BitVec 1) : Acc := if slot = 0#1 then s.acc0 else s.acc1

/-- `acc[s] <- a`. -/
def setAcc (slot : BitVec 1) (a : Acc) (s : State) : State :=
  if slot = 0#1 then { s with acc0 := a } else { s with acc1 := a }

/-- `sext_28(v[27:0])` of a reference-point register, kept as 28 bits (30_encoding.md R321). -/
def refPoint (v : Word) : BitVec 28 := v.extractLsb' 0 28

/-- The I/O offset of a slot's first register, BGsPA (42_backgrounds.md R623). -/
def slotOff (slot : BitVec 1) : Nat := if slot = 0#1 then 0x020 else 0x030

/-! ## Monitors (40_register_interface.md R409, R410) -/

/-- The arguments of a monitor callback. -/
structure MonitorCall where
  address : Addr
  shift : Nat
  mask : Word
  old : Word
  new : Word
deriving DecidableEq, Repr

/-- The arguments `Monitors` gives for a write of `n` bytes at `addr` (R409). -/
def monitorCall (addr : Addr) (w : Width) (old new : Word) : MonitorCall :=
  let shift := 8 * (addr.toNat % 4)
  let mask := BitVec.ofNat 32 ((2 ^ (8 * widthBytes w) - 1) <<< shift)
  { address := addr, shift := shift, mask := mask, old := old, new := new }

/-- The address `address & ~3` of a word. -/
def wordAddr (a : Addr) : Addr := a &&& 0xFFFFFFFC#32

/-- The refresh callback of a slot (R410). -/
def refreshSlot (slot : BitVec 1) (c : MonitorCall) (s : State) : State :=
  let base := ioAddr (slotOff slot + 8)
  let a := accOf s slot
  if (wordAddr c.address).toNat = base then setAcc slot { a with x := refPoint c.new } s
  else if (wordAddr c.address).toNat = base + 4 then setAcc slot { a with y := refPoint c.new } s
  else s

/-- The range `[base, base+len)` of an entry meets `[addr, addr+n)`. -/
def monitorHit (e : Monitor) (addr : Addr) (w : Width) : Bool :=
  decide (e.base.toNat < addr.toNat + widthBytes w) && decide (addr.toNat < e.base.toNat + e.len.toNat) && decide (0 < e.len.toNat)

/-- `Monitors(addr, n, old, new)`: every entry the write meets, in list order (R409). -/
def runMonitors (addr : Addr) (w : Width) (old new : Word) (s : State) : State :=
  s.monitors.foldl (fun t e => if monitorHit e addr w then refreshSlot e.slot (monitorCall addr w old new) t else t) s

/-! ## Bus writes (40_register_interface.md R403 to R407) -/

/-- What a bus write stores at one address (R407): DISPSTAT[2:0] and VCOUNT keep their values. -/
def maskedByte (m : Memory) (a : Nat) (b : Byte) : Byte :=
  if a = 0x04000004 then (b &&& 0xF8#8) ||| (m.read a &&& 0x07#8)
  else if a = 0x04000006 ∨ a = 0x04000007 then m.read a
  else b

/-- `WriteMask(addr, n, v)` (R407), byte by byte; a store of `n` bytes uses the low `n`. -/
def writeMask (m : Memory) (a : Nat) (v : Word) : Word :=
  word4 (maskedByte m (a + 3) (byteOf v 3)) (maskedByte m (a + 2) (byteOf v 2)) (maskedByte m (a + 1) (byteOf v 1))
    (maskedByte m a (byteOf v 0))

/-- The store of a bus write and the monitors it runs (R403, R404, R405). -/
def busStore (addr : Addr) (w : Width) (v : Word) (s : State) : State :=
  let wa := (wordAddr addr).toNat
  let mem := s.mem.store addr.toNat w (writeMask s.mem addr.toNat v)
  runMonitors addr w (s.mem.load32 wa) (mem.load32 wa) { s with mem := mem }

/-- A bus read (R400, R401, R402): it changes no state of the block. -/
def busRead (addr : Addr) (w : Width) (s : State) : State :=
  busChecked addr w (fun t => respond (.value (t.mem.load addr.toNat w)) t) s

/-- A bus write (R403, R404, R405). -/
def busWrite (addr : Addr) (w : Width) (v : Word) (s : State) : State :=
  busChecked addr w (fun t => respond .noValue (busStore addr w v t)) s

/-- The word compare-and-set of a bus agent (R406). -/
def busCas (addr : Addr) (expected update : Word) (s : State) : State :=
  busChecked addr .word
    (fun t =>
      if t.mem.load32 addr.toNat = expected then respond (.flag true) (busStore addr .word update t)
      else respond (.flag false) t) s

/-- `addMonitor` (R408). -/
def addMonitor (e : Monitor) (s : State) : State := { s with monitors := s.monitors ++ [e] }

/-! ## Line buffers and the frame buffer (10_state.md R131, R133) -/

/-- `LB[n]` of a background layer. -/
def lbOf (s : State) (n : BitVec 2) : List Half :=
  match n.toNat with
  | 0 => s.lb0
  | 1 => s.lb1
  | 2 => s.lb2
  | _ => s.lb3

/-- `LB[n] <- row` of a background layer. -/
def setLb (n : BitVec 2) (row : List Half) (s : State) : State :=
  match n.toNat with
  | 0 => { s with lb0 := row }
  | 1 => { s with lb1 := row }
  | 2 => { s with lb2 := row }
  | _ => { s with lb3 := row }

/-- The pixel `FB[y][x]`. -/
def fbPixel (s : State) (y x : Nat) : Half := (s.fb.getD y []).getD x 0#16

/-- `FB[y] <- row`. -/
def setFbRow (y : Nat) (row : List Half) (s : State) : State := { s with fb := s.fb.set y row }

/-- `FB[y][x] <- c`. -/
def setFbPixel (y x : Nat) (c : Half) (s : State) : State := { s with fb := s.fb.set y ((s.fb.getD y []).set x c) }

/-- `{prio: prio, mode: mode, semi: (mode == 1)}` (10_state.md R132). -/
def infoOf (prio mode : BitVec 2) : Info := { prio := prio, mode := mode, semi := mode == 1#2 }

/-- `prio | mode << 2 | semi << 4` (10_state.md R132). -/
def packInfo (i : Info) : BitVec 5 := BitVec.ofBool i.semi ++ i.mode ++ i.prio

/-- A line 0..159 is a visible line: on any other, S3 does nothing (41_timing_engine.md R504). -/
def visible (s : State) : Bool := decide (s.line.toNat < 160)

/-- An operation of the line render, done on a visible line only (R504, log entry 13). -/
def onVisible (k : State → State) (s : State) : State := if visible s then k s else s

/-! ## The clock (41_timing_engine.md R508) -/

/-- `t_line <-` the current clock reading (10_state.md R136), the next free reading. -/
def readClock (s : State) : State := { s with tLine := Config.clockAt s.clockReads, clockReads := s.clockReads + 1 }

/-- `wait_until(t)`: time is not modelled (70_reset_and_hazards.md R1020); the wait is always enabled and changes
nothing but the phase, which its sub-step sets. -/
def waitUntil (_deadline : Nat) (s : State) : State := s

/-! ## The Presenter (60_exceptions.md R913, R914) -/

/-- The end of the Presenter's wait on the frame-ready condition (10_state.md R134): what is ready is consumed. The
Presenter takes this step only when its wait can end (`canMove`). -/
def presenterWait (s : State) : State := { s with consumed := s.framesReady }

/-- One pixel read of the Presenter (20_memory.md R220), which it takes only after a wait (`canMove`). -/
def presenterRead (y : Fin 160) (x : Fin 240) (s : State) : State := { s with presented := fbPixel s y.val x.val }

/-! ## Whose move it is (20_memory.md R220, log entry 1) -/

/-- The agent of an entry can take its step now. The Presenter is blocked at a wait until the counter exceeds the value it
last consumed (10_state.md R134), and at a read until some wait of its own has ended, which leaves that value positive
(10_state.md R100, 60_exceptions.md R913); no other agent ever blocks. -/
def canMove (s : State) : Input → Bool
  | .command _ => true
  | .operation _ => true
  | .engine => true
  | .presenterWait => decide (s.consumed < s.framesReady)
  | .presenterRead _ _ => decide (0 < s.consumed)

/-- An entry of the Presenter. -/
def ofPresenter : Input → Bool
  | .command _ => false
  | .operation _ => false
  | .engine => false
  | .presenterWait => true
  | .presenterRead _ _ => true

/-- The first entry of another agent, and the entries that stay. -/
def firstOther : List Input → Option (Input × List Input)
  | [] => none
  | e :: rest => if ofPresenter e then (firstOther rest).map fun p => (p.1, e :: p.2) else some (e, rest)

/-- The next entry of the schedule, and the entries that stay: the head, or, while the Presenter is blocked at the head,
the first entry of another agent. The entries of a blocked Presenter stay in their order and none is dropped. -/
def nextMove (s : State) : Option (Input × List Input) :=
  match s.schedule with
  | [] => none
  | e :: rest => if canMove s e then some (e, rest) else firstOther (e :: rest)

/-! ## Commands that are no operation -/

/-- The treatment of a stored command that decodes to no row, always a next state: an unsupported width raises StoreFault
and an illegal code is refused (30_encoding.md R335, checked first: 60_exceptions.md R907); what is no row of the model's
own frame notation has no meaning, and what has none is refused (60_exceptions.md R902, log entry 2). -/
def rejectCommand (e : DecodeError) (s : State) : State :=
  match e with
  | .illegalCommand _ => refuse s
  | .unsupportedWidth cmd addr => raiseStoreFault (.width addr cmd) s
  | .frameLength _ => refuse s
  | .unknownFormat _ => refuse s
  | .lineOutOfRange _ => refuse s
  | .columnOutOfRange _ => refuse s
  | .noBitmapMode _ => refuse s
  | .noPixelRow _ => refuse s
  | .noTableWord _ => refuse s

end Sys2Proof.Machine
end

