-- ==== Sys2Proof/Machine/Bus.lean ====
section
/-! DEFINITION. The meanings of the bus transactions and of the monitor registration (40_register_interface.md R400 to
R408). Each is one atomic action (20_memory.md R206). -/

namespace Sys2Proof.Machine

/-- RD8 (R400). -/
def execRd8 (addr : Addr) (s : State) : Outcome := .next (busRead addr .byte s)

/-- RD16 (R401). -/
def execRd16 (addr : Addr) (s : State) : Outcome := .next (busRead addr .half s)

/-- RD32 (R402). -/
def execRd32 (addr : Addr) (s : State) : Outcome := .next (busRead addr .word s)

/-- WR8 (R403). -/
def execWr8 (addr : Addr) (data : Byte) (s : State) : Outcome :=
  .next (busWrite addr .byte (word4 0#8 0#8 0#8 data) s)

/-- WR16 (R404). -/
def execWr16 (addr : Addr) (data : Half) (s : State) : Outcome := .next (busWrite addr .half (0#16 ++ data) s)

/-- WR32 (R405). -/
def execWr32 (addr : Addr) (data : Word) (s : State) : Outcome := .next (busWrite addr .word data s)

/-- CAS32 (R406). -/
def execCas32 (addr : Addr) (expected update : Word) (s : State) : Outcome := .next (busCas addr expected update s)

/-- ADDMON (R408): `monitors <- monitors ++ [(baseAddress, length, callback)]`. -/
def execAddmon (slot : BitVec 1) (base : Addr) (len : Word) (s : State) : Outcome :=
  .next (addMonitor { base := base, len := len, slot := slot } s)

end Sys2Proof.Machine
end

