-- ==== Sys2Proof/Machine/Operands.lean ====
section
/-! DEFINITION. Operand assembly (30_encoding.md R320 to R327) and the fields of registers, map entries and sprite
attributes (10_state.md R111 to R125, 30_encoding.md R305 to R314). -/

namespace Sys2Proof.Machine

/-- The field `v[lo+len-1:lo]` as an unsigned number (00_scope.md R8). -/
def field {n : Nat} (v : BitVec n) (lo len : Nat) : Nat := (v.extractLsb' lo len).toNat

/-! ## Registers -/

/-- BGnCNT (10_state.md R114). -/
def bgCnt (m : Memory) (n : Nat) : Half := reg16 m (0x008 + 2 * n)

/-- BGnHOFS as `zext_9` (R115, 30_encoding.md R322). -/
def bgHofs (m : Memory) (n : Nat) : Nat := field (reg16 m (0x010 + 4 * n)) 0 9

/-- BGnVOFS as `zext_9` (R115, 30_encoding.md R322). -/
def bgVofs (m : Memory) (n : Nat) : Nat := field (reg16 m (0x012 + 4 * n)) 0 9

/-- BGsPA as `sext_16` (R116, 30_encoding.md R320). -/
def bgPa (m : Memory) (slot : BitVec 1) : Int := (reg16 m (slotOff slot)).toInt

/-- BGsPB, the X velocity per line (R116), as a halfword. -/
def bgPb (m : Memory) (slot : BitVec 1) : Half := reg16 m (slotOff slot + 2)

/-- BGsPC as `sext_16` (R116). -/
def bgPc (m : Memory) (slot : BitVec 1) : Int := (reg16 m (slotOff slot + 4)).toInt

/-- BGsPD, the Y velocity per line (R116), as a halfword. -/
def bgPd (m : Memory) (slot : BitVec 1) : Half := reg16 m (slotOff slot + 6)

/-- BGsX (R117). -/
def bgRefX (m : Memory) (slot : BitVec 1) : Word := reg32 m (slotOff slot + 8)

/-- BGsY (R117). -/
def bgRefY (m : Memory) (slot : BitVec 1) : Word := reg32 m (slotOff slot + 12)

/-- `mw = MOSAIC[3:0] + 1` (R122, 30_encoding.md R327). -/
def mosaicW (m : Memory) : Nat := field (reg16 m 0x04C) 0 4 + 1

/-- `mv = MOSAIC[7:4] + 1` (R122, 30_encoding.md R327). -/
def mosaicV (m : Memory) : Nat := field (reg16 m 0x04C) 4 4 + 1

/-- A blend coefficient, `min(raw5, 16)` (30_encoding.md R325, 44_compositor.md R813). -/
def coefficient (r : Half) (lo : Nat) : Nat := min (field r lo 5) 16

/-- EVA (R124). -/
def evaOf (m : Memory) : Nat := coefficient (reg16 m 0x052) 0

/-- EVB (R124). -/
def evbOf (m : Memory) : Nat := coefficient (reg16 m 0x052) 8

/-- EVY (R125). -/
def evyOf (m : Memory) : Nat := coefficient (reg16 m 0x054) 0

/-! ## BGnCNT fields (R114, 30_encoding.md R326) -/

/-- PRIO. -/
def cntPrio (cnt : Half) : BitVec 2 := cnt.extractLsb' 0 2

/-- The tile-data base, `CHAR_BASE * 0x4000`. -/
def charBase (cnt : Half) : Nat := field cnt 2 2 * 0x4000

/-- The map base, `SCREEN_BASE * 0x800`. -/
def screenBase (cnt : Half) : Nat := field cnt 8 5 * 0x800

/-- The map extent of a tiled layer by SIZE (42_backgrounds.md R611). -/
def textExtent (cnt : Half) : Nat × Nat :=
  match field cnt 14 2 with
  | 0 => (256, 256)
  | 1 => (512, 256)
  | 2 => (256, 512)
  | _ => (512, 512)

/-- The extent of an affine layer, `128 << SIZE` (42_backgrounds.md R615). -/
def affineExtent (cnt : Half) : Nat := 128 <<< field cnt 14 2

/-! ## Colours (00_scope.md R10) -/

/-- `R(c)`. -/
def chanR (c : Half) : Nat := field c 0 5

/-- `G(c)`. -/
def chanG (c : Half) : Nat := field c 5 5

/-- `B(c)`. -/
def chanB (c : Half) : Nat := field c 10 5

/-- `RGB(r, g, b) = r | (g << 5) | (b << 10)`. -/
def rgb (r g b : Nat) : Half := BitVec.ofNat 16 (r ||| (g <<< 5) ||| (b <<< 10))

/-! ## Sprite attributes (30_encoding.md R311 to R314, R323) -/

/-- attr0 of record `i` (R310). -/
def attr0 (m : Memory) (i : Nat) : Half := oam16 m (8 * i)

/-- attr1 of record `i`. -/
def attr1 (m : Memory) (i : Nat) : Half := oam16 m (8 * i + 2)

/-- attr2 of record `i`. -/
def attr2 (m : Memory) (i : Nat) : Half := oam16 m (8 * i + 4)

/-- attr0[9:8], the kind of a record (R312). -/
def objKind (a0 : Half) : BitVec 2 := a0.extractLsb' 8 2

/-- attr0[11:10], OMODE. -/
def objMode (a0 : Half) : BitVec 2 := a0.extractLsb' 10 2

/-- attr0[15:14], SHAPE. -/
def objShape (a0 : Half) : BitVec 2 := a0.extractLsb' 14 2

/-- attr1[15:14], SIZE. -/
def objSize (a1 : Half) : BitVec 2 := a1.extractLsb' 14 2

/-- X, `sext_9(attr1[8:0])` (R323). -/
def objX (a1 : Half) : Int := (a1.extractLsb' 0 9).toInt

/-- Y, `attr0[7:0]` (R323). -/
def objY (a0 : Half) : Nat := field a0 0 8

/-- attr2[11:10], PRIO. -/
def objPrio (a2 : Half) : BitVec 2 := a2.extractLsb' 10 2

/-- Element `j` of rotation parameter set `p`, as `sext_16` (R314): 0 is pa, 1 pb, 2 pc, 3 pd. -/
def objParam (m : Memory) (p j : Nat) : Int := (oam16 m (0x20 * p + 0x06 + 8 * j)).toInt

end Sys2Proof.Machine
end

