-- ==== Sys2Proof/Machine/Flags.lean ====
section
/-! DEFINITION. The status flags and enables of DISPSTAT (10_state.md R103, R112) and the Engine's compare-and-set of
them (41_timing_engine.md R514). The block has no condition codes and no other flag. -/

namespace Sys2Proof.Machine

/-- The word at 0x04000004: DISPSTAT in its low half, VCOUNT in its high half (R514). -/
def statusWord (m : Memory) : Word := m.load32 0x04000004

/-- DISPSTAT (R112). -/
def dispstat (m : Memory) : Half := reg16 m 0x004

/-- VCOUNT (R113). -/
def vcount (m : Memory) : Half := reg16 m 0x006

/-- VBLANK_FLAG of a status word. -/
def vblankFlag (w : Word) : Bool := w.getLsbD 0

/-- HBLANK_FLAG of a status word. -/
def hblankFlag (w : Word) : Bool := w.getLsbD 1

/-- VCOUNT_FLAG of a status word. -/
def vcountFlag (w : Word) : Bool := w.getLsbD 2

/-- VBLANK_IE of a status word. -/
def vblankIe (w : Word) : Bool := w.getLsbD 3

/-- HBLANK_IE of a status word. -/
def hblankIe (w : Word) : Bool := w.getLsbD 4

/-- VCOUNT_IE of a status word. -/
def vcountIe (w : Word) : Bool := w.getLsbD 5

/-- LYC of a status word (R112). -/
def lycOf (w : Word) : Byte := byteOf w 1

/-- A status word with its three flags replaced and every other bit kept. -/
def withFlags (w : Word) (vblank hblank vcnt : Bool) : Word :=
  (w &&& 0xFFFFFFF8#32) ||| (0#29 ++ BitVec.ofBool vcnt ++ BitVec.ofBool hblank ++ BitVec.ofBool vblank)

/-- `L >= 160`, the value S2 gives VBLANK_FLAG (41_timing_engine.md R502). -/
def vblankLevel (s : State) : Bool := decide (160 ≤ s.line.toNat)

/-- `L == LYC`, the value S2 gives VCOUNT_FLAG, LYC read from the word that is replaced (R502). -/
def vcountMatch (s : State) : Bool := s.line == lycOf (statusWord s.mem)

/-- The whole of a StatusCAS retry loop, taken at its successful attempt (R514, log entry 8): an unmasked store of the
word with new flags. -/
def statusCas (vblank hblank vcnt : Bool) (s : State) : State :=
  { s with mem := s.mem.store 0x04000004 .word (withFlags (statusWord s.mem) vblank hblank vcnt) }

/-- The update of S2: VBLANK_FLAG and VCOUNT_FLAG, HBLANK_FLAG left as it is (R502). -/
def updateLineFlags (s : State) : State :=
  statusCas (vblankLevel s) (hblankFlag (statusWord s.mem)) (vcountMatch s) s

/-- The update of S6 and S8: HBLANK_FLAG only (R509, R511). -/
def updateHblankFlag (v : Bool) (s : State) : State :=
  statusCas (vblankFlag (statusWord s.mem)) v (vcountFlag (statusWord s.mem)) s

end Sys2Proof.Machine
end

