-- ==== Sys2Proof/Machine/Background.lean ====
section
/-! DEFINITION. The background layers (42_backgrounds.md): tiled, affine and bitmap, each as the line buffer it gives
for one line; the accumulator pipeline; and the meanings of the BGCNT and BITMAP rows. `m` is the line snapshot, `L`
the line, `x` a column, `k` the number of the draw that a VRAM read past the end would take. -/

namespace Sys2Proof.Machine

/-- A palette index as a layer pixel: index 0 is transparent (R613, R614, R619, R626). -/
def indexColour (m : Memory) (idx colour : Nat) : Half := if idx = 0 then transparent else palColour m colour

/-- One entry for each of the 240 columns. -/
def columns (f : Nat → Half) : List Half := (List.range 240).map f

/-- Snap a coordinate down to its mosaic cell of size `c`. -/
def snap (v c : Nat) : Nat := v - v % c

/-! ## Tiled layers -/

/-- What `TextCoord` returns: tile number, sub-palette, and the pixel within the tile. -/
structure TextCoord where
  tile : Nat
  bank : Nat
  tx : Nat
  ty : Nat
deriving DecidableEq, Repr

/-- The map position (px, py) of column `x` on line `L`: scrolled, modulo the extent, then snapped (R612). -/
def textPosition (m : Memory) (n : Nat) (cnt : Half) (x L : Nat) : Nat × Nat :=
  let px := (x + bgHofs m n) % (textExtent cnt).1
  let py := (L + bgVofs m n) % (textExtent cnt).2
  if cnt.getLsbD 6 then (snap px (mosaicW m), snap py (mosaicV m)) else (px, py)

/-- The byte offset of the map entry of a position (R611, R612). -/
def textEntryOffset (cnt : Half) (px py : Nat) : Nat :=
  let blk := px / 256 + py / 256 * ((textExtent cnt).1 / 256)
  screenBase cnt + blk * 0x800 + (py % 256) / 8 * 64 + (px % 256) / 8 * 2

/-- The fields of a map entry at a position, the flips applied (30_encoding.md R305, R612). -/
def textEntry (e : Half) (px py : Nat) : TextCoord :=
  { tile := field e 0 10, bank := field e 12 4,
    tx := if e.getLsbD 10 then 7 - px % 8 else px % 8,
    ty := if e.getLsbD 11 then 7 - py % 8 else py % 8 }

/-- `TextCoord(n, x, L)` (R612). -/
def textCoord (m : Memory) (n : Nat) (cnt : Half) (x L k : Nat) : TextCoord :=
  let pos := textPosition m n cnt x L
  textEntry (vram16 m (textEntryOffset cnt pos.1 pos.2) k) pos.1 pos.2

/-- The nibble of pixel `tx` in its byte: the low one when `tx` is even (30_encoding.md R307). -/
def nibble (b : Byte) (tx : Nat) : Nat := if tx % 2 = 0 then field b 0 4 else field b 4 4

/-- The pixel of a 4-bit tiled layer (R613). -/
def textPixel4 (m : Memory) (n : Nat) (cnt : Half) (L base x : Nat) : Half :=
  let t := textCoord m n cnt x L (base + x)
  let idx := nibble (vram8 m (charBase cnt + t.tile * 32 + t.ty * 4 + t.tx / 2) (base + x)) t.tx
  indexColour m idx (t.bank * 16 + idx)

/-- The pixel of an 8-bit tiled layer (R614). -/
def textPixel8 (m : Memory) (n : Nat) (cnt : Half) (L base x : Nat) : Half :=
  let t := textCoord m n cnt x L (base + x)
  let idx := (vram8 m (charBase cnt + t.tile * 64 + t.ty * 8 + t.tx) (base + x)).toNat
  indexColour m idx idx

/-! ## The affine pipeline -/

/-- `Round8(v) = (v + 128) >> 8` (R616). -/
def round8 (v : Int) : Int := (v + 128) >>> (8 : Nat)

/-- The whole-pixel position of column `x`: the running position starts at the accumulator and has moved by (pa, pc)
once for each earlier column (R615; unbounded integers, 92_eei_decisions.md D32; log entry 19). -/
def affinePosition (m : Memory) (slot : BitVec 1) (acc : Acc) (x : Nat) : Int × Int :=
  (round8 (acc.x.toInt + x * bgPa m slot), round8 (acc.y.toInt + x * bgPc m slot))

/-- The position inside a `w` × `h` area, or none outside it: `clip` of R617 and the bounds of R624. -/
def clipPosition (ix iy : Int) (w h : Nat) : Option (Nat × Nat) :=
  if 0 ≤ ix ∧ ix < w ∧ 0 ≤ iy ∧ iy < h then some (ix.toNat, iy.toNat) else none

/-- `wrap` of R618: the floor modulus on each axis. -/
def wrapPosition (ix iy : Int) (size : Nat) : Nat × Nat := ((ix % size).toNat, (iy % size).toNat)

/-- `MosaicSnap(cnt, ix, iy)` (R622). -/
def mosaicSnap (m : Memory) (cnt : Half) (p : Nat × Nat) : Nat × Nat :=
  if cnt.getLsbD 6 then (snap p.1 (mosaicW m), snap p.2 (mosaicV m)) else p

/-- `AffineTexel(cnt, S, ix, iy)` (R619). -/
def affineTexel (m : Memory) (cnt : Half) (k : Nat) (p : Nat × Nat) : Half :=
  let size := affineExtent cnt
  let t := (vram8 m (screenBase cnt + p.2 / 8 * (size / 8) + p.1 / 8) k).toNat
  let idx := (vram8 m (charBase cnt + t * 64 + p.2 % 8 * 8 + p.1 % 8) k).toNat
  indexColour m idx idx

/-- The pixel of an affine layer that clips (R615, R617). -/
def affinePixelClip (m : Memory) (slot : BitVec 1) (acc : Acc) (cnt : Half) (base x : Nat) : Half :=
  let p := affinePosition m slot acc x
  match clipPosition p.1 p.2 (affineExtent cnt) (affineExtent cnt) with
  | some q => affineTexel m cnt (base + x) (mosaicSnap m cnt q)
  | none => transparent

/-- The pixel of an affine layer that wraps (R615, R618). -/
def affinePixelWrap (m : Memory) (slot : BitVec 1) (acc : Acc) (cnt : Half) (base x : Nat) : Half :=
  let p := affinePosition m slot acc x
  affineTexel m cnt (base + x) (mosaicSnap m cnt (wrapPosition p.1 p.2 (affineExtent cnt)))

/-! ## Bitmap layers -/

/-- The bitmap kinds of modes 3, 4 and 5 (30_encoding.md R309). -/
inductive BitmapKind where
  | bitmap3 | bitmap4 | bitmap5
deriving DecidableEq, Repr

/-- The bitmap's own size (R624); `g` is MODE4_GEOMETRY. -/
def bitmapSize (g : Nat × Nat) : BitmapKind → Nat × Nat
  | .bitmap3 => (240, 160)
  | .bitmap4 => g
  | .bitmap5 => (160, 128)

/-- `BitmapPixel(BITMAP3, ix, iy)` (R625). -/
def bitmapPixel3 (m : Memory) (k ix iy : Nat) : Half := vram16 m ((ix + iy * 240) * 2) k &&& 0x7FFF#16

/-- `BitmapPixel(BITMAP4, ix, iy)` of frame `f` (R626, R628); `w4` is the width of MODE4_GEOMETRY. -/
def bitmapPixel4 (m : Memory) (w4 f k ix iy : Nat) : Half :=
  let i := (vram8 m (f * 0xA000 + ix + iy * w4) k).toNat
  indexColour m i i

/-- `BitmapPixel(BITMAP5, ix, iy)` of frame `f` (R627, R628). -/
def bitmapPixel5 (m : Memory) (f k ix iy : Nat) : Half := vram16 m (f * 0xA000 + (ix + iy * 160) * 2) k &&& 0x7FFF#16

/-- `BitmapPixel(k, ix, iy)`. -/
def bitmapPixel (m : Memory) (g : Nat × Nat) (kind : BitmapKind) (f k : Nat) (p : Nat × Nat) : Half :=
  match kind with
  | .bitmap3 => bitmapPixel3 m k p.1 p.2
  | .bitmap4 => bitmapPixel4 m g.1 f k p.1 p.2
  | .bitmap5 => bitmapPixel5 m f k p.1 p.2

/-- The pixel of the bitmap layer, over slot 0 (R624). -/
def bitmapLayerPixel (m : Memory) (g : Nat × Nat) (kind : BitmapKind) (f : Nat) (acc : Acc) (cnt : Half) (base x : Nat) :
    Half :=
  let p := affinePosition m 0#1 acc x
  match clipPosition p.1 p.2 (bitmapSize g kind).1 (bitmapSize g kind).2 with
  | some q => bitmapPixel m g kind f (base + x) (mosaicSnap m cnt q)
  | none => transparent

/-! ## Layer kinds and gating -/

/-- The kinds of a background layer (R601, 30_encoding.md R304). -/
inductive LayerKind where
  | off | text4 | text8 | affineClip | affineWrap
  | bitmap (k : BitmapKind)
deriving DecidableEq, Repr

/-- The kind TEXT, refined by BGnCNT[7] (30_encoding.md R304). -/
def textKind (cnt : Half) : LayerKind := if cnt.getLsbD 7 then .text8 else .text4

/-- The kind AFFINE, refined by BGnCNT[13] (30_encoding.md R304). -/
def affineKind (cnt : Half) : LayerKind := if cnt.getLsbD 13 then .affineWrap else .affineClip

/-- Layer `n` is rendered (R610): a kind OFF never, a bitmap always, the others by their enable bit. -/
def layerShown (d : Half) (n : Nat) : LayerKind → Bool
  | .off => false
  | .bitmap _ => true
  | _ => d.getLsbD (8 + n)

/-- The pixel of layer `n` by the rule of its kind; slot 1 serves layer 3 and slot 0 layer 2 (R623). -/
def layerPixel (m : Memory) (acc0 acc1 : Acc) (g : Nat × Nat) (d : Half) (n : Nat) (kind : LayerKind) (L base x : Nat) :
    Half :=
  let slot : BitVec 1 := if n = 3 then 1#1 else 0#1
  let acc := if n = 3 then acc1 else acc0
  match kind with
  | .off => transparent
  | .text4 => textPixel4 m n (bgCnt m n) L base x
  | .text8 => textPixel8 m n (bgCnt m n) L base x
  | .affineClip => affinePixelClip m slot acc (bgCnt m n) base x
  | .affineWrap => affinePixelWrap m slot acc (bgCnt m n) base x
  | .bitmap k => bitmapLayerPixel m g k (field d 4 1) acc0 (bgCnt m 2) base x

/-- `RenderLayer(n, k, L)` (R610): the line buffer of layer `n`. -/
def renderLayer (m : Memory) (acc0 acc1 : Acc) (g : Nat × Nat) (d : Half) (n : Nat) (kind : LayerKind) (L base : Nat) :
    List Half :=
  columns fun x => if layerShown d n kind then layerPixel m acc0 acc1 g d n kind L base x else transparent

/-! ## The accumulators -/

/-- `sext_28(a + sext_16(v))`, the sum wrapping at 28 bits (R620). -/
def advanceBy (a : BitVec 28) (v : Half) : BitVec 28 := a + v.signExtend 28

/-- One pair advanced by its velocities (R620). -/
def advanceAcc (m : Memory) (slot : BitVec 1) (a : Acc) : Acc :=
  { x := advanceBy a.x (bgPb m slot), y := advanceBy a.y (bgPd m slot) }

/-- `AdvanceAccumulators()` (R620), with the velocities of the snapshot `m`. -/
def advanceAccumulators (m : Memory) (s : State) : State :=
  { s with acc0 := advanceAcc m 0#1 s.acc0, acc1 := advanceAcc m 1#1 s.acc1 }

/-- One pair loaded from its registers (R621). -/
def loadAcc (m : Memory) (slot : BitVec 1) : Acc := { x := refPoint (bgRefX m slot), y := refPoint (bgRefY m slot) }

/-- `ReloadAccumulators()` (R621): the registers are read live. -/
def reloadAccumulators (s : State) : State := { s with acc0 := loadAcc s.mem 0#1, acc1 := loadAcc s.mem 1#1 }

/-! ## The meanings of the BGCNT and BITMAP rows -/

/-- A layer operation on its own: the line buffer of one layer for the current line, each column with a draw of its
own in reserve (log entries 5 and 13). DESIGN CHOICE: it is performed whatever DISPCNT makes of the layer (OFF,
another kind: 30_encoding.md R304; forced blank, mode 7: R608, R609) and whatever its enable bit, since the spec gives
no case of it on its own (log entry 18). -/
def layerOp (n : BitVec 2) (f : Nat → Half) (s : State) : State :=
  onVisible (fun t => takeDraws 240 (setLb n (columns f) t)) s

/-- BG_TEXT_4BPP (R613): BGnCNT is the word `cnt`. -/
def execBgText4bpp (n : BitVec 2) (cnt : Half) (s : State) : Outcome :=
  .next (layerOp n (textPixel4 (snapshot s) n.toNat cnt s.line.toNat s.draws) s)

/-- BG_TEXT_8BPP (R614). -/
def execBgText8bpp (n : BitVec 2) (cnt : Half) (s : State) : Outcome :=
  .next (layerOp n (textPixel8 (snapshot s) n.toNat cnt s.line.toNat s.draws) s)

/-- The layer a slot serves (R623). -/
def slotLayer (slot : BitVec 1) : BitVec 2 := if slot = 0#1 then 2#2 else 3#2

/-- BG_AFFINE_CLIP (R617). -/
def execBgAffineClip (slot : BitVec 1) (cnt : Half) (s : State) : Outcome :=
  .next (layerOp (slotLayer slot) (affinePixelClip (snapshot s) slot (accOf s slot) cnt s.draws) s)

/-- BG_AFFINE_WRAP (R618). -/
def execBgAffineWrap (slot : BitVec 1) (cnt : Half) (s : State) : Outcome :=
  .next (layerOp (slotLayer slot) (affinePixelWrap (snapshot s) slot (accOf s slot) cnt s.draws) s)

/-- The pixel of a bitmap at a position: its pixel rule inside the bitmap, TRANSPARENT outside (R624). -/
def bitmapAt (m : Memory) (kind : BitmapKind) (f k : Nat) (ix iy : Word) : Half :=
  let g := Config.mode4Geometry
  if ix.toNat < (bitmapSize g kind).1 ∧ iy.toNat < (bitmapSize g kind).2 then
    bitmapPixel m g kind f k (ix.toNat, iy.toNat)
  else transparent

/-- A bitmap operation on its own: the pixel is left, with a draw in reserve (log entries 5 and 12). -/
def bitmapOp (kind : BitmapKind) (f : Nat) (ix iy : Word) (s : State) : State :=
  takeDraws 1 { s with bmpPixel := bitmapAt (snapshot s) kind f s.draws ix iy }

/-- BITMAP3 (R625): mode 3 has no frame select (R628). -/
def execBitmap3 (ix iy : Word) (s : State) : Outcome := .next (bitmapOp .bitmap3 0 ix iy s)

/-- BITMAP4 (R626) with the size of MODE4_GEOMETRY. -/
def execBitmap4 (frame : BitVec 1) (ix iy : Word) (s : State) : Outcome :=
  .next (bitmapOp .bitmap4 frame.toNat ix iy s)

/-- BITMAP5 (R627). -/
def execBitmap5 (frame : BitVec 1) (ix iy : Word) (s : State) : Outcome :=
  .next (bitmapOp .bitmap5 frame.toNat ix iy s)

end Sys2Proof.Machine
end

