-- ==== Sys2Proof/Machine/Sprite.lean ====
section
/-! DEFINITION. The sprite blitter (43_sprites.md): the box table, the texel transforms, the tile numbers, the pixel
fetches, WritePixel, the pass over the 128 records, and the meanings of the OAM_ATTR0 rows and of the object mappings.
A record writes each column it covers at most once and no column's write reads another column, so one record is one
pass over the columns of the two sprite buffers (log entry 19). -/

namespace Sys2Proof.Machine

/-! ## The box (R703) -/

/-- The square boxes. -/
def boxSquare (size : BitVec 2) : Nat × Nat :=
  match size.toNat with
  | 0 => (8, 8)
  | 1 => (16, 16)
  | 2 => (32, 32)
  | _ => (64, 64)

/-- The horizontal boxes. -/
def boxHorizontal (size : BitVec 2) : Nat × Nat :=
  match size.toNat with
  | 0 => (16, 8)
  | 1 => (32, 8)
  | 2 => (32, 16)
  | _ => (64, 32)

/-- The vertical boxes. -/
def boxVertical (size : BitVec 2) : Nat × Nat :=
  match size.toNat with
  | 0 => (8, 16)
  | 1 => (8, 32)
  | 2 => (16, 32)
  | _ => (32, 64)

/-- `Box(shape, size)`; shape 3 has no box and never reaches here (R703, R714; log entry 21). -/
def boxOf? (shape size : BitVec 2) : Option (Nat × Nat) :=
  match shape.toNat with
  | 0 => some (boxSquare size)
  | 1 => some (boxHorizontal size)
  | 2 => some (boxVertical size)
  | _ => none

/-! ## Texel coordinates (R706, R707, R716) -/

/-- `RegularTexel(a1, w, h, bx, ry)` (R706). -/
def regularTexel (a1 : Half) (w h bx ry : Nat) : Texel :=
  { ok := true,
    tx := if a1.getLsbD 12 then (w : Int) - 1 - bx else bx,
    ty := if a1.getLsbD 13 then (h : Int) - 1 - ry else ry }

/-- `AffineTexel(a1, w, h, W', H', bx, ry)` (R707): `dw` and `dh` are the display box W' × H'. -/
def rotatedTexel (m : Memory) (a1 : Half) (w h dw dh bx ry : Nat) : Texel :=
  let p := field a1 9 5
  let dx : Int := (bx : Int) - (dw / 2 : Nat)
  let dy : Int := (ry : Int) - (dh / 2 : Nat)
  let tx := ((objParam m p 0 * dx + objParam m p 1 * dy) >>> (8 : Nat)) + (w / 2 : Nat)
  let ty := ((objParam m p 2 * dx + objParam m p 3 * dy) >>> (8 : Nat)) + (h / 2 : Nat)
  { ok := decide (0 ≤ tx ∧ tx < w ∧ 0 ≤ ty ∧ ty < h), tx := tx, ty := ty }

/-- The display box of a record: doubled for OBJ_AFFINE_DOUBLE only (R702, R716). -/
def displayBox (kind : BitVec 2) (b : Nat × Nat) : Nat × Nat := if kind = 3#2 then (2 * b.1, 2 * b.2) else b

/-- The texel of a shown record of a kind (R702). -/
def recordTexel (m : Memory) (kind : BitVec 2) (a1 : Half) (b : Nat × Nat) (bx ry : Nat) : Texel :=
  if kind = 0#2 then regularTexel a1 b.1 b.2 bx ry
  else rotatedTexel m a1 b.1 b.2 (displayBox kind b).1 (displayBox kind b).2 bx ry

/-! ## Tile numbers (R709, R710) -/

/-- `TileNum1D(T, w, k, tx, ty)` (R709). -/
def tileNum1d (t w k tx ty : Nat) : Nat := (t + ty / 8 * (w / 8) * k + tx / 8 * k) % 1024

/-- `TileNum2D(T, k, tx, ty)` (R710). -/
def tileNum2d (t k tx ty : Nat) : Nat := (t + ty / 8 * 32 + tx / 8 * k) % 1024

/-- The tile number in the mapping DISPCNT[6] selects; `k` tile units a tile (R711, R721). -/
def objTile (oneD : Bool) (a2 : Half) (w k tx ty : Nat) : Nat :=
  if oneD then tileNum1d (field a2 0 10) w k tx ty else tileNum2d (field a2 0 10) k tx ty

/-! ## Pixels (R711, R721) -/

/-- The VRAM offset of a 4-bit texel (R711). -/
def objOffset4 (t tx ty : Nat) : Nat := 0x10000 + (t * 32 + ty % 8 * 4 + tx % 8 / 2) % 0x8000

/-- The VRAM offset of an 8-bit texel (R721). -/
def objOffset8 (t tx ty : Nat) : Nat := 0x10000 + (t * 32 + ty % 8 * 8 + tx % 8) % 0x8000

/-- `Pixel4(a2, a1, w, tx, ty)` (R711): the palette index and the colour. -/
def objPixel4 (m : Memory) (oneD : Bool) (a2 : Half) (w tx ty : Nat) : Nat × Half :=
  let idx := nibble (m.read (0x06000000 + objOffset4 (objTile oneD a2 w 1 tx ty) tx ty)) tx
  (idx, palColour m (256 + field a2 12 4 * 16 + idx))

/-- `Pixel8(a2, a1, w, tx, ty)` (R721). -/
def objPixel8 (m : Memory) (oneD : Bool) (a2 : Half) (w tx ty : Nat) : Nat × Half :=
  let idx := (m.read (0x06000000 + objOffset8 (objTile oneD a2 w 2 tx ty) tx ty)).toNat
  (idx, palColour m (256 + idx))

/-! ## The sprite buffers -/

/-- The entries of one column of LB[4] and LB[5]. -/
abbrev SpriteCell := Half × Info

/-- The entry each column starts from (R700). -/
def spriteInit : SpriteCell := (transparent, { prio := 3#2, mode := 0#2, semi := false })

/-- `WritePixel(x, prio, mode, c)` on the column's own entries (R712). -/
def writePixel (prio mode : BitVec 2) (c : Half) (cell : SpriteCell) : SpriteCell :=
  if prio.toNat ≤ cell.2.prio.toNat then (if mode = 2#2 then cell.1 else c, infoOf prio mode) else cell

/-- What `SpriteRecord(i, L)` does to column `x` (R702, R704, R705): the record is shown, covers the line and the
column, its texel is inside the sprite, and its palette index is not 0. -/
def recordColumn (m : Memory) (d : Half) (L i x : Nat) (cell : SpriteCell) : SpriteCell :=
  let a0 := attr0 m i
  let a1 := attr1 m i
  let a2 := attr2 m i
  let kind := objKind a0
  if kind = 2#2 then cell
  else
    match boxOf? (objShape a0) (objSize a1) with
    | none => cell
    | some b =>
      let ry := ((L : Int) - objY a0) % 256
      let bx := (x : Int) - objX a1
      if ry < (displayBox kind b).2 ∧ 0 ≤ bx ∧ bx < (displayBox kind b).1 then
        let t := recordTexel m kind a1 b bx.toNat ry.toNat
        if t.ok then
          let px :=
            if a0.getLsbD 13 then objPixel8 m (d.getLsbD 6) a2 b.1 t.tx.toNat t.ty.toNat
            else objPixel4 m (d.getLsbD 6) a2 b.1 t.tx.toNat t.ty.toNat
          if px.1 = 0 then cell else writePixel (objPrio a2) (objMode a0) px.2 cell
        else cell
      else cell

/-- `SpriteRecord(i, L)` over the columns. -/
def spriteRecord (m : Memory) (d : Half) (L i : Nat) (cells : List SpriteCell) : List SpriteCell :=
  cells.zipIdx.map fun p => recordColumn m d L i p.2 p.1

/-- A record that is not hidden and holds OMODE 3 or SHAPE 3 (R714). -/
def prohibitedRecord (a0 : Half) : Bool := objKind a0 != 2#2 && (objMode a0 == 3#2 || objShape a0 == 3#2)

/-- Some record makes the line's row a draw (R700, R714). -/
def prohibitedLine (m : Memory) : Bool := (List.range 128).any fun i => prohibitedRecord (attr0 m i)

/-- What the sprite pass gives for a line: the two buffers, and whether it returned PROHIBITED. -/
structure SpriteResult where
  cells : List SpriteCell
  prohibited : Bool
deriving DecidableEq, Repr

/-- `SpritePass(L)` (R700, R701): the buffers start from their initial entries; with OBJ_EN = 0 they stay so; the
records are done from 127 down to 0. -/
def spritePass (m : Memory) (d : Half) (L : Nat) : SpriteResult :=
  let init := List.replicate 240 spriteInit
  if !d.getLsbD 12 then { cells := init, prohibited := false }
  else if prohibitedLine m then { cells := init, prohibited := true }
  else { cells := (List.range 128).reverse.foldl (fun cs i => spriteRecord m d L i cs) init, prohibited := false }

/-- The two sprite buffers of a result. -/
def setSprites (cells : List SpriteCell) (s : State) : State :=
  { s with lb4 := cells.map Prod.fst, lb5 := cells.map Prod.snd }

/-- `ProhibitedRow(L)` (R714) and the row of mode 7 (42_backgrounds.md R609): the row of the current line is a draw in
every column. DESIGN CHOICE: OBJ_MODE_PROHIBITED and OBJ_SHAPE_PROHIBITED performed on their own give it whatever OBJ_EN
holds; R714 speaks of OBJ_EN = 1, a gate that the sprite pass applies before it (R700, log entry 18). -/
def undefinedRow (s : State) : State :=
  onVisible (fun t => takeDraws 240 (setFbRow t.line.toNat (drawRow t.draws) t)) s

/-- `WritePixel` at column `x` of the sprite buffers (R712); a column off the screen is skipped (R705). DESIGN CHOICE: on its
own it is performed whatever OBJ_EN holds, and also while OAM holds a prohibited record, for which the pass of a line
returns before any record (R700, R714; log entry 18). -/
def writePixelAt (x : Nat) (prio mode : BitVec 2) (c : Half) (s : State) : State :=
  if x < 240 then
    match s.lb4[x]?, s.lb5[x]? with
    | some c4, some i5 =>
      let cell := writePixel prio mode c (c4, i5)
      { s with lb4 := s.lb4.set x cell.1, lb5 := s.lb5.set x cell.2 }
    | _, _ => s
  else s

/-! ## The meanings of the OAM_ATTR0 rows and of the object mappings -/

/-- OBJ_MAP_2D (R710): `deep` is attr0[13]. DESIGN CHOICE: on its own the row is performed whatever DISPCNT[6] in memory
holds, though its Encoding is DISPCNT[6] = 0 (log entry 18). -/
def execObjMap2d (tile : BitVec 10) (deep : Bool) (tx ty : BitVec 6) (s : State) : Outcome :=
  .next { s with tileNum := BitVec.ofNat 10 (tileNum2d tile.toNat (if deep then 2 else 1) tx.toNat ty.toNat) }

/-- OBJ_MAP_1D (R709). DESIGN CHOICE: on its own the row is performed whatever DISPCNT[6] in memory holds, though its
Encoding is DISPCNT[6] = 1 (log entry 18). -/
def execObjMap1d (tile : BitVec 10) (w : Byte) (deep : Bool) (tx ty : BitVec 6) (s : State) : Outcome :=
  .next { s with tileNum := BitVec.ofNat 10 (tileNum1d tile.toNat w.toNat (if deep then 2 else 1) tx.toNat ty.toNat) }

/-- OBJ_REGULAR (R706). -/
def execObjRegular (a1 : Half) (w h bx ry : Byte) (s : State) : Outcome :=
  .next { s with texel := regularTexel a1 w.toNat h.toNat bx.toNat ry.toNat }

/-- OBJ_AFFINE (R707): the display box is the sprite's box. -/
def execObjAffine (a1 : Half) (w h bx ry : Byte) (s : State) : Outcome :=
  .next { s with texel := rotatedTexel (snapshot s) a1 w.toNat h.toNat w.toNat h.toNat bx.toNat ry.toNat }

/-- OBJ_HIDDEN (R713): `return`; nothing is read and nothing changes. -/
def execObjHidden (s : State) : Outcome := .next s

/-- OBJ_AFFINE_DOUBLE (R716): the display box is twice the sprite's box on each axis. -/
def execObjAffineDouble (a1 : Half) (w h bx ry : Byte) (s : State) : Outcome :=
  .next { s with texel := rotatedTexel (snapshot s) a1 w.toNat h.toNat (2 * w.toNat) (2 * h.toNat) bx.toNat ry.toNat }

/-- OBJ_MODE_NORMAL (R717): `WritePixel(x, PRIO, 0, c)`. -/
def execObjModeNormal (x : Byte) (prio : BitVec 2) (c : BitVec 15) (s : State) : Outcome :=
  .next (writePixelAt x.toNat prio 0#2 (0#1 ++ c) s)

/-- OBJ_MODE_SEMI (R718): `WritePixel(x, PRIO, 1, c)`. -/
def execObjModeSemi (x : Byte) (prio : BitVec 2) (c : BitVec 15) (s : State) : Outcome :=
  .next (writePixelAt x.toNat prio 1#2 (0#1 ++ c) s)

/-- OBJ_MODE_WINDOW (R719): `WritePixel(x, PRIO, 2, c)`. -/
def execObjModeWindow (x : Byte) (prio : BitVec 2) (c : BitVec 15) (s : State) : Outcome :=
  .next (writePixelAt x.toNat prio 2#2 (0#1 ++ c) s)

/-- OBJ_MODE_PROHIBITED (R714): the row of the current line is a draw. -/
def execObjModeProhibited (s : State) : Outcome := .next (undefinedRow s)

/-- OBJ_4BPP (R711), in the mapping of DISPCNT[6]. -/
def execObj4bpp (a2 : Half) (w : Byte) (tx ty : BitVec 6) (s : State) : Outcome :=
  let px := objPixel4 (snapshot s) ((reg16 (snapshot s) 0x000).getLsbD 6) a2 w.toNat tx.toNat ty.toNat
  .next { s with objPixel := (BitVec.ofNat 8 px.1, px.2) }

/-- OBJ_8BPP (R721), in the mapping of DISPCNT[6]. -/
def execObj8bpp (a2 : Half) (w : Byte) (tx ty : BitVec 6) (s : State) : Outcome :=
  let px := objPixel8 (snapshot s) ((reg16 (snapshot s) 0x000).getLsbD 6) a2 w.toNat tx.toNat ty.toNat
  .next { s with objPixel := (BitVec.ofNat 8 px.1, px.2) }

/-- OBJ_SHAPE_SQUARE (R703). -/
def execObjShapeSquare (size : BitVec 2) (s : State) : Outcome := .next { s with box := boxSquare size }

/-- OBJ_SHAPE_HORIZONTAL (R703). -/
def execObjShapeHorizontal (size : BitVec 2) (s : State) : Outcome := .next { s with box := boxHorizontal size }

/-- OBJ_SHAPE_VERTICAL (R703). -/
def execObjShapeVertical (size : BitVec 2) (s : State) : Outcome := .next { s with box := boxVertical size }

/-- OBJ_SHAPE_PROHIBITED (R714): the row of the current line is a draw. -/
def execObjShapeProhibited (s : State) : Outcome := .next (undefinedRow s)

end Sys2Proof.Machine
end

