-- ==== Sys2Proof/Machine/Compositor.lean ====
section
/-! DEFINITION. The compositor (44_compositor.md): window control, the two candidates, the effects, the row it writes,
and the meanings of the PIXEL and BLDCNT rows. `m` is the line snapshot, `d` the DISPCNT word of the line. -/

namespace Sys2Proof.Machine

/-! ## Windows (R801 to R805, R816, R817) -/

/-- `InSpan(a, b, v)` (R802). -/
def inSpan (a b v : Nat) : Bool := if a ≤ b then decide (a ≤ v ∧ v < b) else decide (v ≥ a ∨ v < b)

/-- `InRect(H, V, x, y)` (R802). -/
def inRect (h v : Half) (x y : Nat) : Bool :=
  inSpan (field h 8 8) (field h 0 8) x && inSpan (field v 8 8) (field v 0 8) y

/-- Which window owns a pixel. -/
inductive WindowKind where
  | none | win0 | win1 | obj | out
deriving DecidableEq, Repr

/-- The precedence of R801. -/
def windowOwner (m : Memory) (d : Half) (x L : Nat) (info : Info) : WindowKind :=
  if field d 13 3 = 0 then .none
  else if d.getLsbD 13 && inRect (reg16 m 0x040) (reg16 m 0x044) x L then .win0
  else if d.getLsbD 14 && inRect (reg16 m 0x042) (reg16 m 0x046) x L then .win1
  else if d.getLsbD 15 && info.mode == 2#2 then .obj
  else .out

/-- A window control: the 5-bit layer mask and the effects flag (10_state.md R120). -/
abbrev Control := BitVec 5 × Bool

/-- The control in bits lo+5:lo of a register (10_state.md R120, R121). -/
def controlAt (r : Half) (lo : Nat) : Control := (r.extractLsb' lo 5, r.getLsbD (lo + 5))

/-- WIN_NONE (R805): every layer and effects enabled. -/
def controlNone : Control := (0b11111#5, true)

/-- WIN0 (R804): WININ[5:0]. -/
def controlWin0 (m : Memory) : Control := controlAt (reg16 m 0x048) 0

/-- WIN1 (R816): WININ[13:8]. -/
def controlWin1 (m : Memory) : Control := controlAt (reg16 m 0x048) 8

/-- WIN_OBJ (R803): WINOUT[13:8]. -/
def controlObj (m : Memory) : Control := controlAt (reg16 m 0x04A) 8

/-- WIN_OUT (R817): WINOUT[5:0]. -/
def controlOut (m : Memory) : Control := controlAt (reg16 m 0x04A) 0

/-- The control of an owner. -/
def controlOf (m : Memory) : WindowKind → Control
  | .none => controlNone
  | .win0 => controlWin0 m
  | .win1 => controlWin1 m
  | .obj => controlObj m
  | .out => controlOut m

/-- `WindowControl(x, L)` (R801). -/
def windowControl (m : Memory) (d : Half) (x L : Nat) (info : Info) : Control := controlOf m (windowOwner m d x L info)

/-! ## Candidates (R806, R807) -/

/-- The layer ids (10_state.md R123). -/
inductive LayerId where
  | bg0 | bg1 | bg2 | bg3 | obj | bd
deriving DecidableEq, Repr

/-- The number of a layer id: its participation bit (10_state.md R123). -/
def layerIndex : LayerId → Nat
  | .bg0 => 0
  | .bg1 => 1
  | .bg2 => 2
  | .bg3 => 3
  | .obj => 4
  | .bd => 5

/-- `{c: colour, p: priority, id: layer id}`. -/
structure Candidate where
  c : Half
  p : BitVec 2
  id : LayerId
deriving DecidableEq, Repr

/-- The two frontmost candidates. -/
structure Candidates where
  first : Candidate
  second : Candidate
deriving DecidableEq, Repr

/-- `Backdrop()` (R807). -/
def backdrop (m : Memory) : Candidate := { c := palColour m 0, p := 3#2, id := .bd }

/-- `Offer(k)` (R806): "≤", so a layer visited later wins a tie. -/
def offer (k : Candidate) (cs : Candidates) : Candidates :=
  if k.p.toNat ≤ cs.first.p.toNat then { first := k, second := cs.first }
  else if k.p.toNat ≤ cs.second.p.toNat then { cs with second := k }
  else cs

/-- A layer is offered when its mask bit is 1 and its pixel is not TRANSPARENT (R806). -/
def offerLayer (mask : BitVec 5) (k : Candidate) (cs : Candidates) : Candidates :=
  if mask.getLsbD (layerIndex k.id) && k.c != transparent then offer k cs else cs

/-- One column of the six line buffers (10_state.md R131). -/
structure LineColumn where
  c0 : Half
  c1 : Half
  c2 : Half
  c3 : Half
  c4 : Half
  info : Info
deriving DecidableEq, Repr

/-- `Candidates(x, mask)` (R806): visited in the order BG3, BG2, BG1, BG0, OBJ. -/
def candidates (m : Memory) (mask : BitVec 5) (q : LineColumn) : Candidates :=
  let seed : Candidates := { first := backdrop m, second := backdrop m }
  let cs := offerLayer mask { c := q.c3, p := cntPrio (bgCnt m 3), id := .bg3 } seed
  let cs := offerLayer mask { c := q.c2, p := cntPrio (bgCnt m 2), id := .bg2 } cs
  let cs := offerLayer mask { c := q.c1, p := cntPrio (bgCnt m 1), id := .bg1 } cs
  let cs := offerLayer mask { c := q.c0, p := cntPrio (bgCnt m 0), id := .bg0 } cs
  offerLayer mask { c := q.c4, p := q.info.prio, id := .obj } cs

/-! ## Effects (R808 to R813) -/

/-- `T1(k) = BLDCNT[k]`. -/
def firstTarget (bld : Half) (k : LayerId) : Bool := bld.getLsbD (layerIndex k)

/-- `T2(k) = BLDCNT[8 + k]`. -/
def secondTarget (bld : Half) (k : LayerId) : Bool := bld.getLsbD (8 + layerIndex k)

/-- One channel of `Alpha`: each term rounded on its own, the sum saturating at 31 (R810). -/
def alphaChannel (eva evb t b : Nat) : Nat := min 31 ((t * eva + 8) / 16 + (b * evb + 8) / 16)

/-- `Alpha(t, b)` (R810). -/
def alpha (eva evb : Nat) (t b : Half) : Half :=
  rgb (alphaChannel eva evb (chanR t) (chanR b)) (alphaChannel eva evb (chanG t) (chanG b))
    (alphaChannel eva evb (chanB t) (chanB b))

/-- One channel of `Brighten` (R811). -/
def brightenChannel (evy c : Nat) : Nat := c + ((31 - c) * evy + 8) / 16

/-- `Brighten(c)` (R811). -/
def brighten (evy : Nat) (c : Half) : Half :=
  rgb (brightenChannel evy (chanR c)) (brightenChannel evy (chanG c)) (brightenChannel evy (chanB c))

/-- One channel of `Darken` (R812). -/
def darkenChannel (evy c : Nat) : Nat := c - (c * evy + 8) / 16

/-- `Darken(c)` (R812). -/
def darken (evy : Nat) (c : Half) : Half :=
  rgb (darkenChannel evy (chanR c)) (darkenChannel evy (chanG c)) (darkenChannel evy (chanB c))

/-- The colour EFF_FORCED_ALPHA gives (R808). -/
def forcedColour (m : Memory) (cs : Candidates) : Half := alpha (evaOf m) (evbOf m) cs.first.c cs.second.c

/-- The colour EFF_NONE gives (R809). -/
def noneColour (cs : Candidates) : Half := cs.first.c

/-- The colour EFF_ALPHA gives, gated by the participation of both candidates (R809, R810). -/
def alphaColour (m : Memory) (bld : Half) (cs : Candidates) : Half :=
  if firstTarget bld cs.first.id && secondTarget bld cs.second.id then
    alpha (evaOf m) (evbOf m) cs.first.c cs.second.c
  else cs.first.c

/-- The colour EFF_BRIGHTEN gives, gated by the first candidate's participation (R809, R811). -/
def brightenColour (m : Memory) (bld : Half) (cs : Candidates) : Half :=
  if firstTarget bld cs.first.id then brighten (evyOf m) cs.first.c else cs.first.c

/-- The colour EFF_DARKEN gives (R809, R812). -/
def darkenColour (m : Memory) (bld : Half) (cs : Candidates) : Half :=
  if firstTarget bld cs.first.id then darken (evyOf m) cs.first.c else cs.first.c

/-- The condition of a forced blend: the first candidate is a sprite pixel of info mode 1 or 2 (R808). -/
def forcedBlend (info : Info) (cs : Candidates) : Bool :=
  cs.first.id == .obj && (info.mode == 1#2 || info.mode == 2#2)

/-- The two earlier arms of `ApplyEffect` (R809), before the selected effect's colour `c`: effects disabled for the
pixel, then the forced blend. -/
def effectOr (m : Memory) (fx : Bool) (info : Info) (cs : Candidates) (c : Half) : Half :=
  if !fx then cs.first.c else if forcedBlend info cs then forcedColour m cs else c

/-- `ApplyEffect(first, second, fx, info)` with BLDCNT = `bld` (R809). -/
def applyEffect (m : Memory) (bld : Half) (fx : Bool) (info : Info) (cs : Candidates) : Half :=
  effectOr m fx info cs
    (match field bld 6 2 with
     | 0 => noneColour cs
     | 1 => alphaColour m bld cs
     | 2 => brightenColour m bld cs
     | _ => darkenColour m bld cs)

/-! ## The row (R800, R814) -/

/-- The pixel of column `x` on line `L`. -/
def composePixel (m : Memory) (d : Half) (L x : Nat) (q : LineColumn) : Half :=
  let ctl := windowControl m d x L q.info
  applyEffect m (reg16 m 0x050) ctl.2 q.info (candidates m ctl.1 q)

/-- Column `x` of the line buffers. -/
def columnOf (s : State) (x : Nat) : LineColumn :=
  { c0 := s.lb0.getD x transparent, c1 := s.lb1.getD x transparent, c2 := s.lb2.getD x transparent,
    c3 := s.lb3.getD x transparent, c4 := s.lb4.getD x transparent, info := s.lb5.getD x spriteInit.2 }

/-- `Compose(L)` (R800): row L from the line buffers. -/
def compose (m : Memory) (d : Half) (L : Nat) (s : State) : State :=
  setFbRow L (columns fun x => composePixel m d L x (columnOf s x)) s

/-! ## The meanings of the PIXEL and BLDCNT rows -/

/-- The window that owns column `x` of the current line. DESIGN CHOICE: the info entry is the one LB[5] holds, whatever
OBJ_EN is now. With OBJ_EN = 0 no pixel of a composed line is in the object window (R803), because the sprite pass of the
line leaves no entry of mode 2 (43_sprites.md R700); a row on its own has no such pass before it, and an entry of mode 2
that an earlier line left counts (log entry 18). -/
def ownerAt (s : State) (x : Nat) : WindowKind :=
  windowOwner (snapshot s) (reg16 (snapshot s) 0x000) x s.line.toNat (columnOf s x).info

/-- A window row at column `x`: when its condition holds there, its control is the pixel's; when it does not hold the
row is not selected and nothing happens. DESIGN CHOICE: it acts so on every line, on 160..227 too, where no compositor
runs (R800): ownership is tested at (x, L) there as well (log entry 13). It acts so too on a visible line that DISPCNT or a
prohibited record keeps from the compositor: forced blank, mode 7, a prohibited row (log entry 18). -/
def windowOp (k : WindowKind) (ctl : Control) (x : Byte) (s : State) : State :=
  if ownerAt s x.toNat = k then { s with winMask := ctl.1, winFx := ctl.2 } else s

/-- WIN_NONE (R805). -/
def execWinNone (x : Byte) (s : State) : Outcome := .next (windowOp .none controlNone x s)

/-- WIN0 (R804). -/
def execWin0 (x : Byte) (s : State) : Outcome := .next (windowOp .win0 (controlWin0 (snapshot s)) x s)

/-- WIN1 (R816). -/
def execWin1 (x : Byte) (s : State) : Outcome := .next (windowOp .win1 (controlWin1 (snapshot s)) x s)

/-- WIN_OBJ (R803). -/
def execWinObj (x : Byte) (s : State) : Outcome := .next (windowOp .obj (controlObj (snapshot s)) x s)

/-- WIN_OUT (R817). -/
def execWinOut (x : Byte) (s : State) : Outcome := .next (windowOp .out (controlOut (snapshot s)) x s)

/-- The candidates of column `x` under the pixel's window control. -/
def candidatesAt (s : State) (x : Nat) : Candidates := candidates (snapshot s) s.winMask (columnOf s x)

/-- An effect row at column `x`: the pixel of the current line gets the colour of `ApplyEffect` whose selected effect
gives `c` (R809, R814). DESIGN CHOICE: on its own it writes the pixel of any visible line, also of one that is forced
blank, of mode 7 or prohibited, where no compositor runs (R800), and takes the line buffers as they stand (log entry
18). DESIGN CHOICE: a row selected by BLDCNT[7:6] gives the whole of `ApplyEffect` for that selection, so it writes the
pixel also where its Encoding fails on the pixel: the first candidate's colour with the effects off or a participation bit
0, the blend where R808 forces one (log entry 13). -/
def effectOp (x : Byte) (c : Half) (s : State) : State :=
  onVisible
    (fun t =>
      setFbPixel t.line.toNat x.toNat
        (effectOr (snapshot t) t.winFx (columnOf t x.toNat).info (candidatesAt t x.toNat) c) t) s

/-- EFF_NONE (R809). -/
def execEffNone (_bld : Half) (x : Byte) (s : State) : Outcome :=
  .next (effectOp x (noneColour (candidatesAt s x.toNat)) s)

/-- EFF_ALPHA (R810). -/
def execEffAlpha (bld : Half) (x : Byte) (s : State) : Outcome :=
  .next (effectOp x (alphaColour (snapshot s) bld (candidatesAt s x.toNat)) s)

/-- EFF_BRIGHTEN (R811). -/
def execEffBrighten (bld : Half) (x : Byte) (s : State) : Outcome :=
  .next (effectOp x (brightenColour (snapshot s) bld (candidatesAt s x.toNat)) s)

/-- EFF_DARKEN (R812). -/
def execEffDarken (bld : Half) (x : Byte) (s : State) : Outcome :=
  .next (effectOp x (darkenColour (snapshot s) bld (candidatesAt s x.toNat)) s)

/-- The per-pixel condition of EFF_FORCED_ALPHA at column `x` (R808). DESIGN CHOICE: as in `ownerAt`, the sprite pixel and
its info entry are those the line buffers hold, whatever OBJ_EN is now (log entry 18). -/
def forcedAt (s : State) (x : Nat) : Bool := s.winFx && forcedBlend (columnOf s x).info (candidatesAt s x)

/-- EFF_FORCED_ALPHA (R808): when its condition holds at the pixel, the blend of the two candidates; when it does not
hold the row is not selected and nothing happens (log entry 13). DESIGN CHOICE: as `effectOp`, it acts on any visible line,
also where no compositor runs (log entry 18). -/
def execEffForcedAlpha (x : Byte) (s : State) : Outcome :=
  .next
    (if forcedAt s x.toNat then
      onVisible (fun t => setFbPixel t.line.toNat x.toNat (forcedColour (snapshot t) (candidatesAt t x.toNat)) t) s
    else s)

end Sys2Proof.Machine
end

