-- ==== Sys2Proof/Machine/Render.lean ====
section
/-! DEFINITION. The line operations of the display modes and the line render (42_backgrounds.md R600 to R610), and
the meanings of the DISPCNT mode rows. -/

namespace Sys2Proof.Machine

/-- The kinds of the four layers of a mode. -/
structure LayerKinds where
  k0 : LayerKind
  k1 : LayerKind
  k2 : LayerKind
  k3 : LayerKind
deriving DecidableEq, Repr

/-- MODE0: four tiled layers (R602). -/
def kindsMode0 (m : Memory) : LayerKinds :=
  { k0 := textKind (bgCnt m 0), k1 := textKind (bgCnt m 1), k2 := textKind (bgCnt m 2), k3 := textKind (bgCnt m 3) }

/-- MODE1: two tiled layers and the affine layer 2 (R603). -/
def kindsMode1 (m : Memory) : LayerKinds :=
  { k0 := textKind (bgCnt m 0), k1 := textKind (bgCnt m 1), k2 := affineKind (bgCnt m 2), k3 := .off }

/-- MODE2: the affine layers 2 and 3 (R604). -/
def kindsMode2 (m : Memory) : LayerKinds :=
  { k0 := .off, k1 := .off, k2 := affineKind (bgCnt m 2), k3 := affineKind (bgCnt m 3) }

/-- MODE3, MODE4, MODE5: one bitmap in layer 2 (R605, R606, R607). -/
def kindsBitmap (k : BitmapKind) : LayerKinds := { k0 := .off, k1 := .off, k2 := .bitmap k, k3 := .off }

/-- The four layer renders of a line; layer `n` keeps the draws `draws + 240 n` on in reserve (log entry 5). -/
def renderLayers (m : Memory) (d : Half) (L : Nat) (ks : LayerKinds) (s : State) : State :=
  let layer := fun n k => renderLayer m s.acc0 s.acc1 Config.mode4Geometry d n k L (s.draws + 240 * n)
  { s with lb0 := layer 0 ks.k0, lb1 := layer 1 ks.k1, lb2 := layer 2 ks.k2, lb3 := layer 3 ks.k3 }

/-- A mode 0 to 5 on line `L` (R600): the layers, the sprite pass, and the row by the compositor unless the pass
returned PROHIBITED, when the row is a draw (43_sprites.md R714). -/
def modeRow (m : Memory) (d : Half) (L : Nat) (ks : LayerKinds) (s : State) : State :=
  let sp := spritePass m d L
  let t := setSprites sp.cells (renderLayers m d L ks s)
  takeDraws 1200 (if sp.prohibited then setFbRow L (drawRow (s.draws + 960)) t else compose m d L t)

/-- The row of a forced blank: opaque white, no line buffer written (R608). -/
def whiteRow (s : State) : State := setFbRow s.line.toNat (List.replicate 240 0x7FFF#16) s

/-- MODE0 (R602) on the current line. -/
def mode0Row (d : Half) (s : State) : State := modeRow (snapshot s) d s.line.toNat (kindsMode0 (snapshot s)) s

/-- MODE1 (R603) on the current line. -/
def mode1Row (d : Half) (s : State) : State := modeRow (snapshot s) d s.line.toNat (kindsMode1 (snapshot s)) s

/-- MODE2 (R604) on the current line. -/
def mode2Row (d : Half) (s : State) : State := modeRow (snapshot s) d s.line.toNat (kindsMode2 (snapshot s)) s

/-- MODE3 (R605) on the current line. -/
def mode3Row (d : Half) (s : State) : State := modeRow (snapshot s) d s.line.toNat (kindsBitmap .bitmap3) s

/-- MODE4 (R606) on the current line. -/
def mode4Row (d : Half) (s : State) : State := modeRow (snapshot s) d s.line.toNat (kindsBitmap .bitmap4) s

/-- MODE5 (R607) on the current line. -/
def mode5Row (d : Half) (s : State) : State := modeRow (snapshot s) d s.line.toNat (kindsBitmap .bitmap5) s

/-- The operation `EffectiveMode(d)` selects (R601, 30_encoding.md R303), on the current line. -/
def effectiveRow (d : Half) (s : State) : State :=
  if d.getLsbD 7 then whiteRow s
  else
    match field d 0 3 with
    | 0 => mode0Row d s
    | 1 => mode1Row d s
    | 2 => mode2Row d s
    | 3 => mode3Row d s
    | 4 => mode4Row d s
    | 5 => mode5Row d s
    | 6 => whiteRow s
    | _ => undefinedRow s

/-- `RenderLine(L)` for the current line, 0..159 (R600): the row by the operation DISPCNT selects, then the advance of
the accumulators by the velocities of the same snapshot. -/
def renderLine (s : State) : State :=
  advanceAccumulators (snapshot s) (effectiveRow (reg16 (snapshot s) 0x000) s)

/-! ## The meanings of the DISPCNT mode rows: the operation's own part of the line render, on a visible line -/

/-- MODE0 (R602). -/
def execMode0 (d : Half) (s : State) : Outcome := .next (onVisible (mode0Row d) s)

/-- MODE1 (R603). -/
def execMode1 (d : Half) (s : State) : Outcome := .next (onVisible (mode1Row d) s)

/-- MODE2 (R604). -/
def execMode2 (d : Half) (s : State) : Outcome := .next (onVisible (mode2Row d) s)

/-- MODE3 (R605). -/
def execMode3 (d : Half) (s : State) : Outcome := .next (onVisible (mode3Row d) s)

/-- MODE4 (R606). -/
def execMode4 (d : Half) (s : State) : Outcome := .next (onVisible (mode4Row d) s)

/-- MODE5 (R607). -/
def execMode5 (d : Half) (s : State) : Outcome := .next (onVisible (mode5Row d) s)

/-- FBLANK by MODE = 6 (R608). -/
def execFblankMode6 (_d : Half) (s : State) : Outcome := .next (onVisible whiteRow s)

/-- MODE7 (R609): the row is a draw. -/
def execMode7 (_d : Half) (s : State) : Outcome := .next (undefinedRow s)

/-- FBLANK by its bit (R608). -/
def execFblankBit (_d : Half) (s : State) : Outcome := .next (onVisible whiteRow s)

end Sys2Proof.Machine
end

