-- ==== Sys2Proof/Machine/Engine.lean ====
section
/-! DEFINITION. The Timing Engine (41_timing_engine.md): the sub-steps S1 to S9, one atomic action each, the line step
they make up, and the meanings of the LINE rows and of the script commands LINE and STOP. -/

namespace Sys2Proof.Machine

/-- The phase after a sub-step. -/
def nextPhase : Phase → Phase
  | .s1 => .s2
  | .s2 => .s3
  | .s3 => .s4
  | .s4 => .s5
  | .s5 => .s6
  | .s6 => .s7
  | .s7 => .s8
  | .s8 => .s9
  | .s9 => .s1

/-- S1 (R501): `t_line` is read, then VCOUNT <- zext_16(L) with a plain store. -/
def subS1 (s : State) : State :=
  readClock { s with mem := s.mem.store 0x04000006 .half (s.line.setWidth 32) }

/-- S2 (R502, R503): the status flags, and the V-counter-match request by the word that is replaced. -/
def subS2 (s : State) : State :=
  emitIf (vcountMatch s && vcountIe (statusWord s.mem)) (.requestInterrupt .lcdVcounterMatch) (updateLineFlags s)

/-- S3 (R504): the render of a line below 160. -/
def subS3 (s : State) : State := onVisible renderLine s

/-- `frames_ready` is incremented and recorded (R505). -/
def signalFrameReady (s : State) : State :=
  emit (.frameReady (s.framesReady + 1)) { s with framesReady := s.framesReady + 1 }

/-- S4 (R505, R506, R507): at line 160 only, frame-ready, reload, the VBLANK signal and its request. -/
def subS4 (s : State) : State :=
  if s.line.toNat = 160 then
    emitIf (vblankIe (statusWord s.mem)) (.requestInterrupt .lcdVblank)
      (emit (.signal .vblank) (reloadAccumulators (signalFrameReady s)))
  else s

/-- S5 (R508): the visible-phase wait. -/
def subS5 (s : State) : State := waitUntil (s.tLine + Config.tVisible) s

/-- S6 (R509): HBLANK_FLAG set, the HBLANK signal on every line, the request below line 160. -/
def subS6 (s : State) : State :=
  emitIf (visible s && hblankIe (statusWord s.mem)) (.requestInterrupt .lcdHblank)
    (emit (.signal .hblank) (updateHblankFlag true s))

/-- S7 (R510): the blank-phase wait. -/
def subS7 (s : State) : State := waitUntil (s.tLine + Config.tVisible + Config.tBlank) s

/-- S8 (R511): HBLANK_FLAG cleared. -/
def subS8 (s : State) : State := updateHblankFlag false s

/-- S9 (R512): the next line; the shutdown flag is sampled when L wraps from 227 to 0, and at no other point. -/
def subS9 (s : State) : State :=
  if s.line.toNat + 1 = 228 then { s with line := 0#8, running := s.running && !s.stopRequested }
  else { s with line := s.line + 1#8 }

/-- The action of a phase. -/
def phaseAction : Phase → State → State
  | .s1, s => subS1 s
  | .s2, s => subS2 s
  | .s3, s => subS3 s
  | .s4, s => subS4 s
  | .s5, s => subS5 s
  | .s6, s => subS6 s
  | .s7, s => subS7 s
  | .s8, s => subS8 s
  | .s9, s => subS9 s

/-- One sub-step: the action of the phase, then the next phase. DESIGN CHOICE: after the S9 that stops the Engine the phase
is S1 as well. R512 says only that `running` is false and no further step is taken, and that the next line step begins at
S1 otherwise (log entry 24). -/
def subStep (p : Phase) (s : State) : State := { phaseAction p s with phase := nextPhase p }

/-- The Engine's move: its next sub-step; a stopped Engine takes none (R512, 60_exceptions.md R917). -/
def engineStep (s : State) : State := if s.running then subStep s.phase s else s

/-- The sub-steps from a phase to the end of the line. -/
def phasesFrom : Phase → List Phase
  | .s1 => [.s1, .s2, .s3, .s4, .s5, .s6, .s7, .s8, .s9]
  | .s2 => [.s2, .s3, .s4, .s5, .s6, .s7, .s8, .s9]
  | .s3 => [.s3, .s4, .s5, .s6, .s7, .s8, .s9]
  | .s4 => [.s4, .s5, .s6, .s7, .s8, .s9]
  | .s5 => [.s5, .s6, .s7, .s8, .s9]
  | .s6 => [.s6, .s7, .s8, .s9]
  | .s7 => [.s7, .s8, .s9]
  | .s8 => [.s8, .s9]
  | .s9 => [.s9]

/-- The line step S1 to S9 for the current L (R500), with no other agent between its sub-steps (30_encoding.md R340).
From S1 it is the whole line step; inside a line it finishes that line (log entry 11). A stopped Engine ignores it
(70_reset_and_hazards.md R1006). -/
def lineStep (s : State) : State :=
  if s.running then (phasesFrom s.phase).foldl (fun t p => subStep p t) s else s

/-- LINE_VISIBLE (R500): the line step of a line 0..159; on another line the row is not selected (log entry 13). -/
def execLineVisible (s : State) : Outcome := .next (if s.line.toNat < 160 then lineStep s else s)

/-- LINE_VBLANK_ENTRY (R505): the line step of line 160. -/
def execLineVblankEntry (s : State) : Outcome := .next (if s.line.toNat = 160 then lineStep s else s)

/-- LINE_VBLANK (R500): the line step of a line 161..227. -/
def execLineVblank (s : State) : Outcome := .next (if 160 < s.line.toNat then lineStep s else s)

/-- LINE (R500, 30_encoding.md R302): the Engine performs one line step, of whichever of the three rows L selects. -/
def execLine (s : State) : Outcome := .next (lineStep s)

/-- STOP (R512): the host sets `stop_requested`. -/
def execStop (s : State) : Outcome := .next { s with stopRequested := true }

end Sys2Proof.Machine
end

