-- ==== Sys2Proof/Machine/Dispatch.lean ====
section
/-! DEFINITION. The dispatch: one arm per operation of the table. -/

namespace Sys2Proof.Machine

/-- The effect of an operation on the state. -/
def exec (i : Instr) (s : State) : Host.Outcome State Fault Refusal :=
  match i with
  | .rd8 addr => Sys2Proof.Machine.execRd8 addr s
  | .rd16 addr => Sys2Proof.Machine.execRd16 addr s
  | .rd32 addr => Sys2Proof.Machine.execRd32 addr s
  | .wr8 addr data => Sys2Proof.Machine.execWr8 addr data s
  | .wr16 addr data => Sys2Proof.Machine.execWr16 addr data s
  | .wr32 addr data => Sys2Proof.Machine.execWr32 addr data s
  | .cas32 addr expected update => Sys2Proof.Machine.execCas32 addr expected update s
  | .addmon slot base len => Sys2Proof.Machine.execAddmon slot base len s
  | .lineVisible => Sys2Proof.Machine.execLineVisible s
  | .lineVblankEntry => Sys2Proof.Machine.execLineVblankEntry s
  | .lineVblank => Sys2Proof.Machine.execLineVblank s
  | .line => Sys2Proof.Machine.execLine s
  | .stop => Sys2Proof.Machine.execStop s
  | .mode0 d => Sys2Proof.Machine.execMode0 d s
  | .mode1 d => Sys2Proof.Machine.execMode1 d s
  | .mode2 d => Sys2Proof.Machine.execMode2 d s
  | .mode3 d => Sys2Proof.Machine.execMode3 d s
  | .mode4 d => Sys2Proof.Machine.execMode4 d s
  | .mode5 d => Sys2Proof.Machine.execMode5 d s
  | .fblankMode6 d => Sys2Proof.Machine.execFblankMode6 d s
  | .mode7 d => Sys2Proof.Machine.execMode7 d s
  | .fblankBit d => Sys2Proof.Machine.execFblankBit d s
  | .objMap2d tile deep tx ty => Sys2Proof.Machine.execObjMap2d tile deep tx ty s
  | .objMap1d tile w deep tx ty => Sys2Proof.Machine.execObjMap1d tile w deep tx ty s
  | .bgText4bpp n cnt => Sys2Proof.Machine.execBgText4bpp n cnt s
  | .bgText8bpp n cnt => Sys2Proof.Machine.execBgText8bpp n cnt s
  | .bgAffineClip slot cnt => Sys2Proof.Machine.execBgAffineClip slot cnt s
  | .bgAffineWrap slot cnt => Sys2Proof.Machine.execBgAffineWrap slot cnt s
  | .objRegular a1 w h bx ry => Sys2Proof.Machine.execObjRegular a1 w h bx ry s
  | .objAffine a1 w h bx ry => Sys2Proof.Machine.execObjAffine a1 w h bx ry s
  | .objHidden => Sys2Proof.Machine.execObjHidden s
  | .objAffineDouble a1 w h bx ry => Sys2Proof.Machine.execObjAffineDouble a1 w h bx ry s
  | .objModeNormal x prio c => Sys2Proof.Machine.execObjModeNormal x prio c s
  | .objModeSemi x prio c => Sys2Proof.Machine.execObjModeSemi x prio c s
  | .objModeWindow x prio c => Sys2Proof.Machine.execObjModeWindow x prio c s
  | .objModeProhibited => Sys2Proof.Machine.execObjModeProhibited s
  | .obj4bpp a2 w tx ty => Sys2Proof.Machine.execObj4bpp a2 w tx ty s
  | .obj8bpp a2 w tx ty => Sys2Proof.Machine.execObj8bpp a2 w tx ty s
  | .objShapeSquare size => Sys2Proof.Machine.execObjShapeSquare size s
  | .objShapeHorizontal size => Sys2Proof.Machine.execObjShapeHorizontal size s
  | .objShapeVertical size => Sys2Proof.Machine.execObjShapeVertical size s
  | .objShapeProhibited => Sys2Proof.Machine.execObjShapeProhibited s
  | .bitmap3 ix iy => Sys2Proof.Machine.execBitmap3 ix iy s
  | .bitmap4 frame ix iy => Sys2Proof.Machine.execBitmap4 frame ix iy s
  | .bitmap5 frame ix iy => Sys2Proof.Machine.execBitmap5 frame ix iy s
  | .effNone bld x => Sys2Proof.Machine.execEffNone bld x s
  | .effAlpha bld x => Sys2Proof.Machine.execEffAlpha bld x s
  | .effBrighten bld x => Sys2Proof.Machine.execEffBrighten bld x s
  | .effDarken bld x => Sys2Proof.Machine.execEffDarken bld x s
  | .effForcedAlpha x => Sys2Proof.Machine.execEffForcedAlpha x s
  | .winNone x => Sys2Proof.Machine.execWinNone x s
  | .win0 x => Sys2Proof.Machine.execWin0 x s
  | .win1 x => Sys2Proof.Machine.execWin1 x s
  | .winObj x => Sys2Proof.Machine.execWinObj x s
  | .winOut x => Sys2Proof.Machine.execWinOut x s

end Sys2Proof.Machine
end

