-- ==== Sys2Proof/Machine/Moves.lean ====
section
/-! DEFINITION. What each agent's move does (10_state.md R100, 70_reset_and_hazards.md R1005): a command of the script, an
operation performed on its own, an Engine sub-step, a step of the Presenter. -/

namespace Sys2Proof.Machine

/-- The rows that are transactions of the bus (30_encoding.md R302). -/
def isBus : Instr → Bool
  | .rd8 _ => true
  | .rd16 _ => true
  | .rd32 _ => true
  | .wr8 _ _ => true
  | .wr16 _ _ => true
  | .wr32 _ _ => true
  | .cas32 _ _ _ => true
  | _ => false

/-- The rows that are commands of the script (30_encoding.md R340): the bus transactions, LINE and STOP. The host and the
bus agent have no other move (70_reset_and_hazards.md R1005, R1006). -/
def isScript : Instr → Bool
  | .line => true
  | .stop => true
  | i => isBus i

/-- A command of the script: it is decoded and performed. One that decodes to no operation is treated as 30_encoding.md R335
says; a row that is no move of the host has no meaning as its command and is refused (70_reset_and_hazards.md R1005,
60_exceptions.md R902). -/
def command (bytes : List Byte) (s : State) : Host.Outcome State Fault Refusal :=
  match decode bytes with
  | .ok i => if isScript i then exec i s else .next (refuse s)
  | .error e => .next (rejectCommand e s)

/-- An operation that the block performs on its own: any row that is no command of the script (log entry 12); anything else
has no meaning here and is refused (60_exceptions.md R902). DESIGN CHOICE: it is performed in every phase of the Engine and
also after the Engine has stopped, though a stopped block keeps its buffers (60_exceptions.md R917); only the LINE rows,
which are line steps, do nothing then (log entries 12 and 17). -/
def operation (bytes : List Byte) (s : State) : Host.Outcome State Fault Refusal :=
  match decode bytes with
  | .ok i => if isScript i then .next (refuse s) else exec i s
  | .error _ => .next (refuse s)

/-- The step of the agent whose move it is. -/
def performMove (e : Input) (s : State) : Host.Outcome State Fault Refusal :=
  match e with
  | .command bytes => command bytes s
  | .operation bytes => operation bytes s
  | .engine => .next (engineStep s)
  | .presenterWait => .next (presenterWait s)
  | .presenterRead y x => .next (presenterRead y x s)

/-- The entry that performs the operation of a frame: a command of the script where it is one, else an operation. -/
def moveOf (bytes : List Byte) : Input :=
  match decode bytes with
  | .ok i => if isScript i then .command bytes else .operation bytes
  | .error _ => .command bytes

end Sys2Proof.Machine
end

