-- ==== Sys2Proof/Machine/Step.lean ====
section
/-! DEFINITION. One step of the block: the next atomic action of the interleaving (20_memory.md R220). Which agent moves is
the next entry of the schedule that can; with none the Engine moves (log entry 1). -/

namespace Sys2Proof.Machine

/-- One move: an entry of the schedule is taken off it and performed. -/
def step (s : State) : Host.Outcome State Fault Refusal :=
  match nextMove s with
  | some (e, rest) => performMove e { s with schedule := rest }
  | none => .next (engineStep s)

/-- `s` with the table's word `w` of `nbits` bits as what the very next step performs: the load of a script from outside,
or the row on its own (log entries 1 and 12). -/
def State.withFetchWord (s : State) (nbits w : Nat) : State :=
  { s with schedule := moveOf (tableFrame nbits w).bytes :: s.schedule }

end Sys2Proof.Machine
end

