-- ==== Sys2Proof/Safety.lean ====
section
/-! DEFINITION. What counts as a good run (70_reset_and_hazards.md R1004) and the invariants of the block, in the terms
the claims use. Each invariant is about every state; that a step keeps it is a claim. -/

namespace Sys2Proof.Machine

/-- No fault recorded and not refused (R1004, R1006): the premise of a claim about a run's results. -/
def State.good (s : State) : Prop := s.faults = [] ∧ s.refused = false

/-- The byte memory is canonical and lists no address outside the four windows (20_memory.md R200). -/
def State.memOk (s : State) : Prop := s.mem.wf ∧ ∀ c ∈ s.mem, inWindow c.1 1 = true

/-- The line counter is a line (10_state.md R102). -/
def State.lineOk (s : State) : Prop := s.line.toNat < 228

/-- A frame-buffer pixel is a 15-bit colour (00_scope.md R10, 10_state.md R133). -/
def opaqueColour (c : Half) : Prop := c.getLsbD 15 = false

/-- A line-buffer colour is a 15-bit colour or TRANSPARENT (R10). -/
def layerColour (c : Half) : Prop := c = transparent ∨ opaqueColour c

/-- A line buffer of colours: 240 of them (10_state.md R131). -/
def colourRow (row : List Half) : Prop := row.length = 240 ∧ ∀ c ∈ row, layerColour c

/-- A row of the frame buffer: 240 opaque pixels (R133). -/
def pixelRow (row : List Half) : Prop := row.length = 240 ∧ ∀ c ∈ row, opaqueColour c

/-- The semi bit is 1 exactly when the mode is 1 (10_state.md R132). -/
def infoOk (i : Info) : Prop := i.semi = (i.mode == 1#2)

/-- The six line buffers have their shape (R131, R132). -/
def State.buffersOk (s : State) : Prop :=
  colourRow s.lb0 ∧ colourRow s.lb1 ∧ colourRow s.lb2 ∧ colourRow s.lb3 ∧ colourRow s.lb4 ∧
    s.lb5.length = 240 ∧ ∀ i ∈ s.lb5, infoOk i

/-- The frame buffer has its shape (R133): 160 rows of opaque pixels. -/
def State.frameOk (s : State) : Prop := s.fb.length = 160 ∧ ∀ row ∈ s.fb, pixelRow row

/-- The phases after S1 of the current line: VCOUNT holds L in them. -/
def Phase.counted : Phase → Bool
  | .s1 => false
  | .s2 => true
  | .s3 => true
  | .s4 => true
  | .s5 => true
  | .s6 => true
  | .s7 => true
  | .s8 => true
  | .s9 => true

/-- The phases after S2 of the current line: VBLANK_FLAG is that of L in them. -/
def Phase.flagged : Phase → Bool
  | .s1 => false
  | .s2 => false
  | .s3 => true
  | .s4 => true
  | .s5 => true
  | .s6 => true
  | .s7 => true
  | .s8 => true
  | .s9 => true

/-- The phases after S6 and up to S8: the blank phase of a line (10_state.md R103). -/
def Phase.blanking : Phase → Bool
  | .s1 => false
  | .s2 => false
  | .s3 => false
  | .s4 => false
  | .s5 => false
  | .s6 => false
  | .s7 => true
  | .s8 => true
  | .s9 => false

/-- VCOUNT is a line, and the current one after S1 (10_state.md R113, 41_timing_engine.md R501). -/
def State.vcountOk (s : State) : Prop :=
  (vcount s.mem).toNat < 228 ∧ (s.phase.counted = true → vcount s.mem = s.line.setWidth 16)

/-- HBLANK_FLAG is 1 exactly in the blank phase of a line; after S2, VBLANK_FLAG is 1 exactly on lines 160 and up
(10_state.md R103). -/
def State.flagsOk (s : State) : Prop :=
  hblankFlag (statusWord s.mem) = s.phase.blanking ∧
    (s.phase.flagged = true → vblankFlag (statusWord s.mem) = decide (160 ≤ s.line.toNat))

/-- A stopped Engine was asked to stop and stands at line 0 (41_timing_engine.md R512), at S1. DESIGN CHOICE: R512 gives no
phase after a stop; that it is S1 is the model's (log entry 24). -/
def State.stopOk (s : State) : Prop :=
  s.running = true ∨ (s.stopRequested = true ∧ s.phase = .s1 ∧ s.line = 0#8)

/-- The number of a frame-ready entry. -/
def Event.frameNumber : Event → Option Nat
  | .frameReady n => some n
  | .requestInterrupt _ => none
  | .signal _ => none

/-- The frame-ready entries of the trace are 1, 2, … up to `frames_ready`, in that order (10_state.md R134, R139), and
the Presenter has consumed no frame that is not ready. DESIGN CHOICE: the count that is bounded there, 0 at reset and
raised to `frames_ready` by each wait, is the model's (log entry 15). -/
def State.framesOk (s : State) : Prop :=
  s.events.filterMap Event.frameNumber = List.range' 1 s.framesReady ∧ s.consumed ≤ s.framesReady

/-- The two entries of construction stay at the head of the monitor list (10_state.md R151). -/
def State.monitorsOk (s : State) : Prop := State.reset.monitors <+: s.monitors

/-- All the invariants of the block. -/
structure State.Inv (s : State) : Prop where
  mem : s.memOk
  line : s.lineOk
  buffers : s.buffersOk
  frame : s.frameOk
  vcount : s.vcountOk
  flags : s.flagsOk
  stop : s.stopOk
  frames : s.framesOk
  monitors : s.monitorsOk

/-! ## Terms of the claims, written from the spec's tables -/

/-- The bytes `a` to `a + n - 1` all lie in one window of 20_memory.md R200, by the addresses of its table. -/
abbrev insideWindow (a n : Nat) : Prop :=
  (0x04000000 ≤ a ∧ a + n ≤ 0x04000060) ∨ (0x05000000 ≤ a ∧ a + n ≤ 0x05000400) ∨
    (0x06000000 ≤ a ∧ a + n ≤ 0x06018000) ∨ (0x07000000 ≤ a ∧ a + n ≤ 0x07000400)

/-- The state after a refusal (60_exceptions.md R902). -/
abbrev State.afterRefusal (s : State) : State := { s with refused := true, response := .noValue }

/-- The state after a StoreFault (60_exceptions.md R901). -/
abbrev State.afterFault (s : State) (f : StoreFault) : State := { s with faults := s.faults ++ [f], response := .noValue }

/-- The coordinate `v` is in the interval of edges `a` and `b` (44_compositor.md R802). -/
abbrev spanHolds (a b v : Nat) : Prop := if a ≤ b then a ≤ v ∧ v < b else a ≤ v ∨ v < b

/-- The point is in the rectangle whose edge registers are `h` and `v` (10_state.md R118, R119, 44_compositor.md R802). -/
abbrev rectHolds (h v : Half) (x y : Nat) : Prop :=
  spanHolds (h.toNat / 256) (h.toNat % 256) x ∧ spanHolds (v.toNat / 256) (v.toNat % 256) y

/-- The Engine stands at the start of a line (41_timing_engine.md R500). -/
abbrev State.atLine (s : State) : Prop := s.running = true ∧ s.phase = .s1

/-- The schedule holds moves of the agents of a run only (10_state.md R100), no operation performed on its own. -/
def State.isRun (s : State) : Prop := ∀ bytes, Input.operation bytes ∉ s.schedule

/-- `t` is `s` after a bus store of the low `n` bytes of `v` at address `a`: only the memory, the accumulators and the
answer may differ; every byte outside `a .. a + n - 1` reads as before; every byte inside reads as
40_register_interface.md R407 says, where DISPSTAT[2:0] and VCOUNT keep their values. -/
def busWrote (s t : State) (a n : Nat) (v : Word) : Prop :=
  t = { s with mem := t.mem, acc0 := t.acc0, acc1 := t.acc1, response := t.response } ∧
    (∀ x, x < a ∨ a + n ≤ x → t.mem.read x = s.mem.read x) ∧
    ∀ k, k < n → t.mem.read (a + k) =
      if a + k = 0x04000004 then ((v >>> (8 * k)).setWidth 8 &&& 0xF8#8) ||| (s.mem.read (a + k) &&& 0x07#8)
      else if a + k = 0x04000006 ∨ a + k = 0x04000007 then s.mem.read (a + k)
      else (v >>> (8 * k)).setWidth 8

/-- The accumulators of `t` are those of `s` after a bus store into the word that holds address `a`
(40_register_interface.md R410): the one whose register that word is takes bits 27:0 of the register, the others keep
their values. -/
def accRefreshed (s t : State) (a : Nat) : Prop :=
  t.acc0.x = (if a / 4 * 4 = 0x04000028 then (reg32 t.mem 0x028).setWidth 28 else s.acc0.x) ∧
    t.acc0.y = (if a / 4 * 4 = 0x0400002C then (reg32 t.mem 0x02C).setWidth 28 else s.acc0.y) ∧
    t.acc1.x = (if a / 4 * 4 = 0x04000038 then (reg32 t.mem 0x038).setWidth 28 else s.acc1.x) ∧
    t.acc1.y = (if a / 4 * 4 = 0x0400003C then (reg32 t.mem 0x03C).setWidth 28 else s.acc1.y)

/-- What a bus write of `n` bytes at `a` may do (40_register_interface.md R403, R404, R405): outside the windows it is
refused, a misaligned one faults, and any other stores its bytes and refreshes the accumulators. -/
def busWriteDone (s t : State) (a : Addr) (n : Nat) (v : Word) : Prop :=
  (¬ insideWindow a.toNat n → t = { s with refused := true, response := t.response }) ∧
    (insideWindow a.toNat n → a.toNat % n ≠ 0 →
      t = { s with faults := s.faults ++ [.misaligned a n], response := t.response }) ∧
    (insideWindow a.toNat n → a.toNat % n = 0 → busWrote s t a.toNat n v ∧ (s.monitorsOk → accRefreshed s t a.toNat))

/-- The byte of DISPSTAT that holds the flags and the enables (10_state.md R112). -/
abbrev State.statusByte (s : State) : Byte := s.mem.read 0x04000004

/-- LYC, the other byte of DISPSTAT (10_state.md R112). -/
abbrev State.lyc (s : State) : Byte := s.mem.read 0x04000005

/-- `n` lines and nothing else are scheduled (30_encoding.md R341, LINES n). -/
abbrev State.linesScheduled (s : State) (n : Nat) : Prop := s.schedule = List.replicate n (.command (encode .line))

end Sys2Proof.Machine
end

