-- ==== Sys2Proof/Certificates/Slice0/Obligations.lean ====
section
/-! DEFINITION. The statements made of the model, for the provers. Each docstring names the rules of spec/ that the
statement formalises or rests on. -/

open Sys2Proof Sys2Proof.Machine

/-! ## Encoding and steps -/

/-- Decoding an encoded well-formed operation gives it back, with every operand. The selecting words are those of
30_encoding.md R330; the frame of 16 bytes around them is the model's own notation, log entry 2. -/
def Obligations.DecodeEncodeRoundTrip : Prop :=
  ∀ i : Instr, WellFormed i → (encode i).length = 16 ∧ decode (encode i) = .ok i

/-- What the decoder accepts is a frame of 16 bytes and a well-formed operation: a register word that the operation carries
selects its row, and a compositor row's column is on the screen (30_encoding.md R330; the frame is the model's own notation,
log entry 2). The reserved command codes are the statement CommandCodes. -/
def Obligations.DecodedIsWellFormed : Prop :=
  ∀ (bytes : List Byte) (i : Instr), decode bytes = .ok i → bytes.length = 16 ∧ WellFormed i

/-- The command codes of R302, in a frame of the model's notation (log entry 2): each code is the transaction or script
command the table gives, or is refused by name as R335 says. -/
def Obligations.CommandCodes : Prop :=
  ∀ addr data expected : Word,
    decode (busFrame 0x0#16 addr data expected).bytes = .ok (.rd8 addr) ∧
    decode (busFrame 0x1#16 addr data expected).bytes = .ok (.rd16 addr) ∧
    decode (busFrame 0x2#16 addr data expected).bytes = .ok (.rd32 addr) ∧
    decode (busFrame 0x3#16 addr data expected).bytes = .error (.illegalCommand 0x3#16) ∧
    decode (busFrame 0x4#16 addr data expected).bytes = .ok (.wr8 addr (data.setWidth 8)) ∧
    decode (busFrame 0x5#16 addr data expected).bytes = .ok (.wr16 addr (data.setWidth 16)) ∧
    decode (busFrame 0x6#16 addr data expected).bytes = .ok (.wr32 addr data) ∧
    decode (busFrame 0x7#16 addr data expected).bytes = .error (.illegalCommand 0x7#16) ∧
    decode (busFrame 0x8#16 addr data expected).bytes = .error (.unsupportedWidth 0x8#4 addr) ∧
    decode (busFrame 0x9#16 addr data expected).bytes = .error (.unsupportedWidth 0x9#4 addr) ∧
    decode (busFrame 0xA#16 addr data expected).bytes = .ok (.cas32 addr expected data) ∧
    decode (busFrame 0xB#16 addr data expected).bytes = .error (.unsupportedWidth 0xB#4 addr) ∧
    decode (busFrame 0xC#16 addr data expected).bytes = .ok .line ∧
    decode (busFrame 0xD#16 addr data expected).bytes = .ok .stop ∧
    decode (busFrame 0xE#16 addr data expected).bytes = .error (.illegalCommand 0xE#16) ∧
    decode (busFrame 0xF#16 addr data expected).bytes = .error (.illegalCommand 0xF#16)

/-- A few frames written out byte by byte from the spec's selecting words (R302, R303, R304, R312) decode to the
operations they stand for; the frame around the word is the model's notation (log entry 2). -/
def Obligations.SampleFramesDecode : Prop :=
  decode [0x05#8, 0#8, 0#8, 0#8, 0x00#8, 0x00#8, 0x00#8, 0x04#8, 0x03#8, 0x04#8, 0#8, 0#8, 0#8, 0#8, 0#8, 0#8] =
      .ok (.wr16 0x04000000#32 0x0403#16) ∧
    decode [0x86#8, 0x1F#8, 3#8, 0#8, 0#8, 0#8, 0#8, 0#8, 0#8, 0#8, 0#8, 0#8, 0#8, 0#8, 0#8, 0#8] =
      .ok (.fblankBit 0x1F86#16) ∧
    decode [0x00#8, 0x20#8, 6#8, 1#8, 0#8, 0#8, 0#8, 0#8, 0#8, 0#8, 0#8, 0#8, 0#8, 0#8, 0#8, 0#8] =
      .ok (.bgAffineWrap 1#1 0x2000#16) ∧
    decode [0x00#8, 0x02#8, 7#8, 0#8, 0#8, 0#8, 0#8, 0#8, 0#8, 0#8, 0#8, 0#8, 0#8, 0#8, 0#8, 0#8] = .ok .objHidden ∧
    decode [0x40#8, 0x00#8, 12#8, 9#8, 0#8, 0#8, 0#8, 0#8, 0#8, 0#8, 0#8, 0#8, 0#8, 0#8, 0#8, 0#8] =
      .ok (.effAlpha 0x0040#16 9#8)

/-- A step whose move is a command of the script, or an operation performed on its own, that decodes performs the decoded
operation on the state with that move taken off the schedule (20_memory.md R220, 30_encoding.md R340; that a row outside
the script can be performed on its own is the model's, log entry 12). -/
def Obligations.StepRunsTheCommand : Prop :=
  ∀ (s : State) (bytes : List Byte) (rest : List Input) (i : Instr), decode bytes = .ok i →
    WellFormed i ∧
    (isScript i = true → s.schedule = .command bytes :: rest → step s = exec i { s with schedule := rest }) ∧
    (isScript i = false → s.schedule = .operation bytes :: rest → step s = exec i { s with schedule := rest })

/-- The other moves of a step: the Engine's sub-step, also when nothing is scheduled, and the Presenter's, which waits until
the counter exceeds the value it last consumed, then reads pixels, and writes nothing of the block. While it is blocked, at
a wait that cannot end or at a read before any wait of its own has ended, every entry of its own stays on the schedule in
order and the other agents go on past it (60_exceptions.md R913, 10_state.md R100, R134; the schedule is the model's, log
entries 1 and 15). -/
def Obligations.StepOtherMoves : Prop :=
  ∀ (s : State) (rest : List Input),
    let blockedAt : Input → Prop := fun p =>
      (p = .presenterWait ∧ s.framesReady ≤ s.consumed) ∨ ((∃ y x, p = .presenterRead y x) ∧ s.consumed = 0)
    (s.schedule = [] → step s = .next (engineStep s)) ∧
    (s.schedule = .engine :: rest → step s = .next (engineStep { s with schedule := rest })) ∧
    (s.schedule = .presenterWait :: rest → s.consumed < s.framesReady →
      step s = .next { s with schedule := rest, consumed := s.framesReady }) ∧
    (∀ (y : Fin 160) (x : Fin 240), s.schedule = .presenterRead y x :: rest → 0 < s.consumed →
      step s = .next { s with schedule := rest, presented := (s.fb.getD y.val []).getD x.val 0#16 }) ∧
    (∀ (p : Input) (ps : List Input), blockedAt p → (∀ e ∈ ps, e = .presenterWait ∨ ∃ y x, e = .presenterRead y x) →
      (s.schedule = p :: ps → step s = .next (engineStep s)) ∧
      (s.schedule = p :: ps ++ .engine :: rest → step s = .next (engineStep { s with schedule := p :: ps ++ rest })) ∧
      ∀ (bytes : List Byte) (i : Instr), decode bytes = .ok i → isScript i = true →
        s.schedule = p :: ps ++ .command bytes :: rest → step s = exec i { s with schedule := p :: ps ++ rest })

/-- The state after construction has the values of 10_state.md R160 (and of 70_reset_and_hazards.md R1002 for
`running`); the line buffers, which R160 leaves unspecified, are not named. -/
def Obligations.ResetState : Prop :=
  (∀ a, State.reset.mem.read a = 0#8) ∧
    State.reset.acc0 = { x := 0#28, y := 0#28 } ∧ State.reset.acc1 = { x := 0#28, y := 0#28 } ∧
    State.reset.line = 0#8 ∧ State.reset.phase = .s1 ∧
    State.reset.fb = List.replicate 160 (List.replicate 240 0x0000#16) ∧
    State.reset.framesReady = 0 ∧ State.reset.stopRequested = false ∧ State.reset.running = true ∧
    State.reset.refused = false ∧ State.reset.faults = [] ∧ State.reset.events = [] ∧
    State.reset.monitors = [{ base := 0x04000028#32, len := 8#32, slot := 0#1 },
      { base := 0x04000038#32, len := 8#32, slot := 1#1 }]

/-! ## Invariants -/

/-- The invariants of the block hold after construction. Two of them are about values that the model names: the shapes of
the line buffers, whose contents R160 leaves unspecified (log entry 10), and the Presenter's count (log entry 15). -/
def Obligations.ResetInvariant : Prop := State.reset.Inv

/-- Every step keeps the invariants of the block: canonical memory inside the windows (20_memory.md R200), a line below
228 (10_state.md R102), buffers of opaque or transparent colours (R131 to R133), VCOUNT and the flags of the current
phase (R103, R113), the stop (41_timing_engine.md R512), the frame count (R134, R139) and the two monitors (R151). Two of its
clauses are the model's choice: that a stopped Engine stands at phase S1, which R512 does not say (log entry 24), and that
the Presenter's count is at most the frame count, by how its wait consumes (log entry 15). -/
def Obligations.StepKeepsInvariants : Prop := ∀ s t : State, s.Inv → step s = .next t → t.Inv

/-! ## Bus transactions -/

/-- RD8, RD16 and RD32: refused outside the windows, a fault when misaligned, else the bytes there, little-endian and
zero-extended, with nothing else changed (40_register_interface.md R400, R401, R402, 20_memory.md R201, R207; that the
answer is held in `response` is the model's, log entry 14). -/
def Obligations.ReadTransactions : Prop :=
  ∀ (s : State) (a : Addr),
    (¬ insideWindow a.toNat 1 → exec (.rd8 a) s = .next s.afterRefusal) ∧
    (insideWindow a.toNat 1 → exec (.rd8 a) s = .next { s with response := .value (0#24 ++ s.mem.read a.toNat) }) ∧
    (¬ insideWindow a.toNat 2 → exec (.rd16 a) s = .next s.afterRefusal) ∧
    (insideWindow a.toNat 2 → a.toNat % 2 ≠ 0 → exec (.rd16 a) s = .next (s.afterFault (.misaligned a 2))) ∧
    (insideWindow a.toNat 2 → a.toNat % 2 = 0 →
      exec (.rd16 a) s =
        .next { s with response := .value (0#16 ++ (s.mem.read (a.toNat + 1) ++ s.mem.read a.toNat)) }) ∧
    (¬ insideWindow a.toNat 4 → exec (.rd32 a) s = .next s.afterRefusal) ∧
    (insideWindow a.toNat 4 → a.toNat % 4 ≠ 0 → exec (.rd32 a) s = .next (s.afterFault (.misaligned a 4))) ∧
    (insideWindow a.toNat 4 → a.toNat % 4 = 0 →
      exec (.rd32 a) s =
        .next { s with
          response := .value
            (s.mem.read (a.toNat + 3) ++ s.mem.read (a.toNat + 2) ++ s.mem.read (a.toNat + 1) ++ s.mem.read a.toNat) })

/-- What a transaction reports, in the order of 60_exceptions.md R907: an illegal command is refused and an unsupported
width faults, whatever the address; then any byte outside the windows refuses, also at a misaligned address; then a
misaligned address faults. A refusal sets the mark and a fault appends its info, and nothing else happens (R901, R902;
that no value is returned is held in `response`, and commands stand in the schedule: log entries 1 and 14). -/
def Obligations.TransactionChecks : Prop :=
  ∀ (s : State) (a : Addr) (d e : Word) (rest : List Input),
    (∀ c : Half, c ∈ [0x3#16, 0x7#16, 0xE#16, 0xF#16] → s.schedule = .command (busFrame c a d e).bytes :: rest →
      step s = .next (State.afterRefusal { s with schedule := rest })) ∧
    (∀ c : BitVec 4, c ∈ [0x8#4, 0x9#4, 0xB#4] → s.schedule = .command (busFrame (c.setWidth 16) a d e).bytes :: rest →
      step s = .next (State.afterFault { s with schedule := rest } (.width a c))) ∧
    (∀ c : Half, c ∈ [0x0#16, 0x4#16] → ¬ insideWindow a.toNat 1 →
      s.schedule = .command (busFrame c a d e).bytes :: rest →
        step s = .next (State.afterRefusal { s with schedule := rest })) ∧
    (∀ c : Half, c ∈ [0x1#16, 0x5#16] → s.schedule = .command (busFrame c a d e).bytes :: rest →
      (¬ insideWindow a.toNat 2 → step s = .next (State.afterRefusal { s with schedule := rest })) ∧
        (insideWindow a.toNat 2 → a.toNat % 2 ≠ 0 →
          step s = .next (State.afterFault { s with schedule := rest } (.misaligned a 2)))) ∧
    (∀ c : Half, c ∈ [0x2#16, 0x6#16, 0xA#16] → s.schedule = .command (busFrame c a d e).bytes :: rest →
      (¬ insideWindow a.toNat 4 → step s = .next (State.afterRefusal { s with schedule := rest })) ∧
        (insideWindow a.toNat 4 → a.toNat % 4 ≠ 0 →
          step s = .next (State.afterFault { s with schedule := rest } (.misaligned a 4))))

/-- WR8, WR16 and WR32: refused outside the windows, a fault when misaligned, else their bytes are stored under
WriteMask, every other byte is left alone, and a write into BG2X, BG2Y, BG3X or BG3Y sets the one accumulator of that
register from bits 27:0 of the whole register and no other (40_register_interface.md R403, R404, R405, R407, R410). -/
def Obligations.WriteTransactions : Prop :=
  ∀ (s : State) (a : Addr), s.memOk →
    (∀ v : Byte, ∃ t, exec (.wr8 a v) s = .next t ∧ busWriteDone s t a 1 (0#24 ++ v)) ∧
    (∀ v : Half, ∃ t, exec (.wr16 a v) s = .next t ∧ busWriteDone s t a 2 (0#16 ++ v)) ∧
    (∀ v : Word, ∃ t, exec (.wr32 a v) s = .next t ∧ busWriteDone s t a 4 v)

/-- CAS32: refused outside the windows, a fault when misaligned; else on a different word it answers false and changes
nothing, and on the expected word it answers true and writes as WR32 does (40_register_interface.md R406, R407, R410;
that the answer is held in `response` is the model's, log entry 14). -/
def Obligations.CompareAndSet : Prop :=
  ∀ (s : State) (a : Addr) (e u : Word), s.memOk →
    (¬ insideWindow a.toNat 4 → exec (.cas32 a e u) s = .next s.afterRefusal) ∧
    (insideWindow a.toNat 4 → a.toNat % 4 ≠ 0 → exec (.cas32 a e u) s = .next (s.afterFault (.misaligned a 4))) ∧
    (insideWindow a.toNat 4 → a.toNat % 4 = 0 →
      s.mem.read (a.toNat + 3) ++ s.mem.read (a.toNat + 2) ++ s.mem.read (a.toNat + 1) ++ s.mem.read a.toNat ≠ e →
        exec (.cas32 a e u) s = .next { s with response := .flag false }) ∧
    (insideWindow a.toNat 4 → a.toNat % 4 = 0 →
      s.mem.read (a.toNat + 3) ++ s.mem.read (a.toNat + 2) ++ s.mem.read (a.toNat + 1) ++ s.mem.read a.toNat = e →
        ∃ t, exec (.cas32 a e u) s = .next t ∧ t.response = .flag true ∧ busWriteDone s t a 4 u)

/-- A write returns no value, whatever its address (40_register_interface.md R403, R404, R405, 60_exceptions.md R901;
that this is held in `response` is the model's, log entry 14). -/
def Obligations.WritesAnswerNothing : Prop :=
  ∀ (s t : State) (a : Addr),
    ((∃ v, exec (.wr8 a v) s = .next t) ∨ (∃ v, exec (.wr16 a v) s = .next t) ∨ ∃ v, exec (.wr32 a v) s = .next t) →
      t.response = .noValue

/-- No bus transaction, whatever its address and data, changes anything but memory, the accumulators, the fault record,
the refusal mark and its own answer; and in memory none changes DISPSTAT[2:0] or VCOUNT. Nor does any command of the bus
agent or of the host other than LINE, but for the stop flag, which STOP alone changes: none writes the frame buffer, a line
buffer, the monitors, L or the phase (70_reset_and_hazards.md R1005, 60_exceptions.md R910). A row that is no command of the
script, given as one, is refused and does nothing else (60_exceptions.md R902; how commands and rows stand on the schedule
is the model's, log entries 1, 2 and 12). -/
def Obligations.BusLeavesTheEngineAlone : Prop :=
  (∀ (i : Instr) (s t : State), isBus i = true → s.memOk → exec i s = .next t →
    t = { s with
      mem := t.mem, acc0 := t.acc0, acc1 := t.acc1, faults := t.faults, refused := t.refused, response := t.response } ∧
    t.statusByte &&& 0x07#8 = s.statusByte &&& 0x07#8 ∧ vcount t.mem = vcount s.mem) ∧
  (∀ (s t : State) (bytes : List Byte) (rest : List Input), s.memOk → s.schedule = .command bytes :: rest →
    decode bytes ≠ .ok .line → step s = .next t →
      t = { s with
        schedule := rest, mem := t.mem, acc0 := t.acc0, acc1 := t.acc1, faults := t.faults, refused := t.refused,
        response := t.response, stopRequested := t.stopRequested } ∧
      t.statusByte &&& 0x07#8 = s.statusByte &&& 0x07#8 ∧ vcount t.mem = vcount s.mem ∧
      (decode bytes ≠ .ok .stop → t.stopRequested = s.stopRequested)) ∧
  ∀ (s : State) (bytes : List Byte) (rest : List Input) (i : Instr), s.schedule = .command bytes :: rest →
    decode bytes = .ok i → isScript i = false → step s = .next (State.afterRefusal { s with schedule := rest })

/-- ADDMON appends its entry to the monitor list and changes nothing else (40_register_interface.md R408; that it can be
performed on its own after construction is the model's, log entry 16). No move of an agent of a run adds a monitor, so the
two entries of 10_state.md R151 stay the whole list; and such a schedule stays one. -/
def Obligations.MonitorRegistration : Prop :=
  (∀ (s : State) (slot : BitVec 1) (base : Addr) (len : Word),
    exec (.addmon slot base len) s =
      .next { s with monitors := s.monitors ++ [{ base := base, len := len, slot := slot }] }) ∧
  ∀ s t : State, s.isRun → step s = .next t → t.isRun ∧ t.monitors = s.monitors

/-! ## The Timing Engine -/

/-- S1 stores L into VCOUNT and changes nothing else but the clock reading (41_timing_engine.md R501). -/
def Obligations.EngineS1 : Prop :=
  ∀ s : State, s.memOk → s.running = true → s.phase = .s1 →
    engineStep s =
      { s with
        mem := (engineStep s).mem, phase := .s2, tLine := (engineStep s).tLine, clockReads := (engineStep s).clockReads } ∧
    vcount (engineStep s).mem = s.line.setWidth 16 ∧
    ∀ x, x ≠ 0x04000006 → x ≠ 0x04000007 → (engineStep s).mem.read x = s.mem.read x

/-- S2 sets VBLANK_FLAG to L ≥ 160 and VCOUNT_FLAG to L = LYC, leaves every other bit and byte, and requests
LCD_VCOUNTER_MATCH exactly when L = LYC and VCOUNT_IE = 1 (41_timing_engine.md R502, R503). That HBLANK_FLAG is 0 here is
R502's own inference from R511; an LYC of 228 or more never matches. -/
def Obligations.EngineS2 : Prop :=
  ∀ s : State, s.memOk → s.running = true → s.phase = .s2 →
    engineStep s =
      { s with
        mem := (engineStep s).mem, phase := .s3,
        events := s.events ++
          (if s.line = s.lyc ∧ s.statusByte.getLsbD 5 = true then [.requestInterrupt .lcdVcounterMatch] else []) } ∧
    (∀ x, x ≠ 0x04000004 → (engineStep s).mem.read x = s.mem.read x) ∧
    (engineStep s).statusByte.getLsbD 0 = decide (160 ≤ s.line.toNat) ∧
    (engineStep s).statusByte.getLsbD 2 = decide (s.line = s.lyc) ∧
    (∀ b, b ≠ 0 → b ≠ 2 → (engineStep s).statusByte.getLsbD b = s.statusByte.getLsbD b) ∧
    (s.flagsOk → (engineStep s).statusByte.getLsbD 1 = false) ∧
    (s.lineOk → 228 ≤ s.lyc.toNat → (engineStep s).statusByte.getLsbD 2 = false)

/-- S3 renders the line below line 160 and does nothing from line 160 on (41_timing_engine.md R504). -/
def Obligations.EngineS3 : Prop :=
  ∀ s : State, s.running = true → s.phase = .s3 →
    (s.line.toNat < 160 → engineStep s = { renderLine s with phase := .s4 }) ∧
    (160 ≤ s.line.toNat → engineStep s = { s with phase := .s4 })

/-- S4 at line 160 counts the frame, reloads both accumulator pairs from bits 27:0 of their registers, emits the VBLANK
signal and, if VBLANK_IE = 1, the LCD_VBLANK request, in that order in the trace; at every other line it does nothing
(41_timing_engine.md R505, R506, R507). -/
def Obligations.EngineS4 : Prop :=
  ∀ s : State, s.running = true → s.phase = .s4 →
    (s.line = 160#8 →
      engineStep s =
        { s with
          phase := .s5, framesReady := s.framesReady + 1,
          acc0 := { x := (reg32 s.mem 0x028).setWidth 28, y := (reg32 s.mem 0x02C).setWidth 28 },
          acc1 := { x := (reg32 s.mem 0x038).setWidth 28, y := (reg32 s.mem 0x03C).setWidth 28 },
          events := s.events ++ [.frameReady (s.framesReady + 1), .signal .vblank] ++
            (if s.statusByte.getLsbD 3 = true then [.requestInterrupt .lcdVblank] else []) }) ∧
    (s.line ≠ 160#8 → engineStep s = { s with phase := .s5 })

/-- S5 and S7 change no state other than the phase (41_timing_engine.md R508, R510). -/
def Obligations.EngineWaits : Prop :=
  ∀ s : State, s.running = true →
    (s.phase = .s5 → engineStep s = { s with phase := .s6 }) ∧ (s.phase = .s7 → engineStep s = { s with phase := .s8 })

/-- S6 sets HBLANK_FLAG, leaves every other bit and byte, and emits the HBLANK signal on every line and the LCD_HBLANK
request below line 160 if HBLANK_IE = 1 (41_timing_engine.md R509). -/
def Obligations.EngineS6 : Prop :=
  ∀ s : State, s.memOk → s.running = true → s.phase = .s6 →
    engineStep s =
      { s with
        mem := (engineStep s).mem, phase := .s7,
        events := s.events ++ [.signal .hblank] ++
          (if s.line.toNat < 160 ∧ s.statusByte.getLsbD 4 = true then [.requestInterrupt .lcdHblank] else []) } ∧
    (∀ x, x ≠ 0x04000004 → (engineStep s).mem.read x = s.mem.read x) ∧
    (engineStep s).statusByte.getLsbD 1 = true ∧
    ∀ b, b ≠ 1 → (engineStep s).statusByte.getLsbD b = s.statusByte.getLsbD b

/-- S8 clears HBLANK_FLAG, leaves every other bit and byte, and emits nothing (41_timing_engine.md R511). -/
def Obligations.EngineS8 : Prop :=
  ∀ s : State, s.memOk → s.running = true → s.phase = .s8 →
    engineStep s = { s with mem := (engineStep s).mem, phase := .s9 } ∧
    (∀ x, x ≠ 0x04000004 → (engineStep s).mem.read x = s.mem.read x) ∧
    (engineStep s).statusByte.getLsbD 1 = false ∧
    ∀ b, b ≠ 1 → (engineStep s).statusByte.getLsbD b = s.statusByte.getLsbD b

/-- S9 moves to the next line, 0 after 227, and samples the shutdown flag at that wrap and at no other point; STOP sets the
flag (41_timing_engine.md R512). That a stopped Engine's move and a LINE command leave the whole state as it is is the
model's reading of R512 and 70_reset_and_hazards.md R1006 (log entry 17, DEDUCED); that the phase is S1 after a stop too is
the model's choice (log entry 24). -/
def Obligations.EngineS9AndStop : Prop :=
  ∀ s : State,
    (s.running = true → s.phase = .s9 → s.line.toNat < 227 →
      engineStep s = { s with phase := .s1, line := s.line + 1#8 }) ∧
    (s.running = true → s.phase = .s9 → s.line = 227#8 →
      engineStep s = { s with phase := .s1, line := 0#8, running := !s.stopRequested }) ∧
    (s.phase ≠ .s9 → (engineStep s).running = s.running) ∧
    exec .stop s = .next { s with stopRequested := true } ∧
    (s.running = false → engineStep s = s ∧ exec .line s = .next s)

/-- A line step is the nine sub-steps S1 to S9 of the Engine with nothing in between, and the rows LINE_VISIBLE,
LINE_VBLANK_ENTRY and LINE_VBLANK are that step at the lines that select them (41_timing_engine.md R500, 30_encoding.md
R340). -/
def Obligations.LineIsNineSubSteps : Prop :=
  ∀ s : State, s.atLine →
    exec .line s = .next (engineStep^[9] s) ∧
    (s.line.toNat < 160 → exec .lineVisible s = .next (engineStep^[9] s)) ∧
    (s.line = 160#8 → exec .lineVblankEntry s = .next (engineStep^[9] s)) ∧
    (160 < s.line.toNat → exec .lineVblank s = .next (engineStep^[9] s))

/-- What one line step appends to the trace, in the order of 41_timing_engine.md R516. -/
def Obligations.LineTrace : Prop :=
  ∀ s : State, s.memOk → s.atLine →
    ∃ t, exec .line s = .next t ∧
      t.events = s.events ++
        (if s.line = s.lyc ∧ s.statusByte.getLsbD 5 = true then [.requestInterrupt .lcdVcounterMatch] else []) ++
        (if s.line = 160#8 then [.frameReady (s.framesReady + 1), .signal .vblank] else []) ++
        (if s.line = 160#8 ∧ s.statusByte.getLsbD 3 = true then [.requestInterrupt .lcdVblank] else []) ++
        [.signal .hblank] ++
        (if s.line.toNat < 160 ∧ s.statusByte.getLsbD 4 = true then [.requestInterrupt .lcdHblank] else [])

/-- What one line step leaves: VCOUNT holds the line, the three flags are those of the line with HBLANK_FLAG 0, every
other bit and byte of memory is as before, the Engine stands at S1 of the next line, a frame is counted at line 160
only, and only row L of the frame buffer may differ (41_timing_engine.md R500 to R512; S1 after a stop too is the model's
choice, log entry 24). -/
def Obligations.LineEndState : Prop :=
  ∀ s : State, s.memOk → s.lineOk → s.atLine →
    ∃ t, exec .line s = .next t ∧
      t.phase = .s1 ∧ t.line = (if s.line = 227#8 then 0#8 else s.line + 1#8) ∧
      t.running = (if s.line = 227#8 then !s.stopRequested else true) ∧
      t.framesReady = (if s.line = 160#8 then s.framesReady + 1 else s.framesReady) ∧
      vcount t.mem = s.line.setWidth 16 ∧
      t.statusByte.getLsbD 0 = decide (160 ≤ s.line.toNat) ∧ t.statusByte.getLsbD 1 = false ∧
      t.statusByte.getLsbD 2 = decide (s.line = s.lyc) ∧
      (∀ b, 3 ≤ b → t.statusByte.getLsbD b = s.statusByte.getLsbD b) ∧
      (∀ x, x ≠ 0x04000004 → x ≠ 0x04000006 → x ≠ 0x04000007 → t.mem.read x = s.mem.read x) ∧
      (∀ y, y ≠ s.line.toNat → t.fb[y]? = s.fb[y]?) ∧ (160 ≤ s.line.toNat → t.fb = s.fb) ∧
      t = { s with
        mem := t.mem, line := t.line, running := t.running, framesReady := t.framesReady, events := t.events,
        fb := t.fb, acc0 := t.acc0, acc1 := t.acc1, lb0 := t.lb0, lb1 := t.lb1, lb2 := t.lb2, lb3 := t.lb3,
        lb4 := t.lb4, lb5 := t.lb5, tLine := t.tLine, clockReads := t.clockReads, draws := t.draws }

/-- A line step adds (BGsPB, BGsPD) to both accumulator pairs on lines 0 to 159, wrapping at 28 bits, whatever the mode
and the layer enables; at line 160 it reloads them; on lines 161 to 227 it leaves them (42_backgrounds.md R620, R621). -/
def Obligations.LineMovesAccumulators : Prop :=
  ∀ s : State, s.memOk → s.atLine →
    ∃ t, exec .line s = .next t ∧
      (s.line.toNat < 160 →
        t.acc0.x = BitVec.ofInt 28 (s.acc0.x.toInt + (reg16 s.mem 0x022).toInt) ∧
        t.acc0.y = BitVec.ofInt 28 (s.acc0.y.toInt + (reg16 s.mem 0x026).toInt) ∧
        t.acc1.x = BitVec.ofInt 28 (s.acc1.x.toInt + (reg16 s.mem 0x032).toInt) ∧
        t.acc1.y = BitVec.ofInt 28 (s.acc1.y.toInt + (reg16 s.mem 0x036).toInt)) ∧
      (s.line = 160#8 →
        t.acc0.x = (reg32 s.mem 0x028).setWidth 28 ∧ t.acc0.y = (reg32 s.mem 0x02C).setWidth 28 ∧
        t.acc1.x = (reg32 s.mem 0x038).setWidth 28 ∧ t.acc1.y = (reg32 s.mem 0x03C).setWidth 28) ∧
      (160 < s.line.toNat → t.acc0 = s.acc0 ∧ t.acc1 = s.acc1)

/-- The accumulator invariant of 42_backgrounds.md R630: N lines from line L, all below line 160 and with no write in
between, leave X0 + N·pb and Y0 + N·pd modulo 2^28, whatever the mode and the layer enables. That the lines are N LINE
commands on the schedule, each a frame of 16 bytes, is the model's notation (log entries 1 and 2). -/
def Obligations.AccumulatorInvariant : Prop :=
  ∀ (n : Nat) (s : State), s.memOk → s.atLine → s.line.toNat + n ≤ 160 → s.linesScheduled n →
    ∃ t : State, Host.Core.run core n s = .next t ∧
      t.acc0.x = BitVec.ofInt 28 (s.acc0.x.toInt + n * (reg16 s.mem 0x022).toInt) ∧
      t.acc0.y = BitVec.ofInt 28 (s.acc0.y.toInt + n * (reg16 s.mem 0x026).toInt) ∧
      t.acc1.x = BitVec.ofInt 28 (s.acc1.x.toInt + n * (reg16 s.mem 0x032).toInt) ∧
      t.acc1.y = BitVec.ofInt 28 (s.acc1.y.toInt + n * (reg16 s.mem 0x036).toInt)

/-- A whole frame of 228 lines from line 0, whatever the registers hold: it ends at line 0 with one more frame counted
and both accumulator pairs reloaded, and its events are 228 HBLANK signals, one VBLANK signal, one frame-ready entry,
and the interrupt requests their enables admit (41_timing_engine.md R515). That the lines are 228 LINE commands on the
schedule, each a frame of 16 bytes, is the model's notation (log entries 1 and 2); S1 after a stop too is its choice (log
entry 24). -/
def Obligations.FrameTrace : Prop :=
  ∀ s : State, s.memOk → s.atLine → s.line = 0#8 → s.linesScheduled 228 →
    ∃ (t : State) (new : List Event), Host.Core.run core 228 s = .next t ∧ t.events = s.events ++ new ∧
      t.line = 0#8 ∧ t.phase = .s1 ∧ t.running = !s.stopRequested ∧ t.framesReady = s.framesReady + 1 ∧
      t.acc0 = { x := (reg32 s.mem 0x028).setWidth 28, y := (reg32 s.mem 0x02C).setWidth 28 } ∧
      t.acc1 = { x := (reg32 s.mem 0x038).setWidth 28, y := (reg32 s.mem 0x03C).setWidth 28 } ∧
      new.count (.signal .hblank) = 228 ∧ new.count (.signal .vblank) = 1 ∧
      new.filterMap Event.frameNumber = [s.framesReady + 1] ∧
      new.count (.requestInterrupt .lcdHblank) = (if s.statusByte.getLsbD 4 = true then 160 else 0) ∧
      new.count (.requestInterrupt .lcdVblank) = (if s.statusByte.getLsbD 3 = true then 1 else 0) ∧
      new.count (.requestInterrupt .lcdVcounterMatch) =
        (if s.statusByte.getLsbD 5 = true ∧ s.lyc.toNat ≤ 227 then 1 else 0)

/-- A row performed on its own where the condition that selects it does not hold changes nothing: the model's choice,
log entry 13. The LINE rows test the line, each window row that it owns the pixel, by the precedence of 44_compositor.md
R801, EFF_FORCED_ALPHA its condition of R808, and the rows of the render the visible line (41_timing_engine.md R504). The
conditions are tested on what the state holds: the window rows, WIN_OUT among them, count an info entry of mode 2 whatever
OBJ_EN is, where R803 and R817 give such a pixel to WIN_OUT with OBJ_EN = 0 (log entry 18), and EFF_FORCED_ALPHA takes fx
and the candidates from `winFx` and `winMask` (log entry 12). -/
def Obligations.UnselectedRows : Prop :=
  ∀ (s : State) (d : Half) (n : BitVec 2) (slot : BitVec 1) (x : Byte),
    let m := s.mem
    let c := reg16 m 0x000
    let info := (columnOf s x.toNat).info
    let in0 := c.getLsbD 13 = true ∧ rectHolds (reg16 m 0x040) (reg16 m 0x044) x.toNat s.line.toNat
    let in1 := c.getLsbD 14 = true ∧ rectHolds (reg16 m 0x042) (reg16 m 0x046) x.toNat s.line.toNat
    let inObj := c.getLsbD 15 = true ∧ info.mode = 2#2
    let forced := s.winFx = true ∧ (candidates m s.winMask (columnOf s x.toNat)).first.id = .obj ∧
      (info.mode = 1#2 ∨ info.mode = 2#2)
    (160 ≤ s.line.toNat → exec .lineVisible s = .next s) ∧
    (s.line ≠ 160#8 → exec .lineVblankEntry s = .next s) ∧
    (s.line.toNat ≤ 160 → exec .lineVblank s = .next s) ∧
    (160 ≤ s.line.toNat →
      ∀ i ∈ [Instr.mode0 d, .mode1 d, .mode2 d, .mode3 d, .mode4 d, .mode5 d, .fblankMode6 d, .mode7 d, .fblankBit d,
          .bgText4bpp n d, .bgText8bpp n d, .bgAffineClip slot d, .bgAffineWrap slot d, .objModeProhibited,
          .objShapeProhibited, .effNone d x, .effAlpha d x, .effBrighten d x, .effDarken d x, .effForcedAlpha x],
        exec i s = .next s) ∧
    (c.toNat / 8192 ≠ 0 → exec (.winNone x) s = .next s) ∧
    (¬ in0 → exec (.win0 x) s = .next s) ∧
    (in0 ∨ ¬ in1 → exec (.win1 x) s = .next s) ∧
    (in0 ∨ in1 ∨ ¬ inObj → exec (.winObj x) s = .next s) ∧
    (c.toNat / 8192 = 0 ∨ in0 ∨ in1 ∨ inObj → exec (.winOut x) s = .next s) ∧
    (¬ forced → exec (.effForcedAlpha x) s = .next s)

/-! ## The line render -/

/-- The operation that DISPCNT selects for a line 0..159, by the table of 30_encoding.md R303 under its mask 0x0087: the
line render is that operation followed by the advance of the accumulators (42_backgrounds.md R600, R601). -/
def Obligations.ModeSelector : Prop :=
  ∀ (s : State) (d : Half), s.line.toNat < 160 → reg16 s.mem 0x000 = d →
    let selects : Instr → Prop := fun i => ∃ t, exec i s = .next t ∧ renderLine s = advanceAccumulators s.mem t
    (d &&& 0x0087#16 = 0x0000#16 → selects (.mode0 d)) ∧
    (d &&& 0x0087#16 = 0x0001#16 → selects (.mode1 d)) ∧
    (d &&& 0x0087#16 = 0x0002#16 → selects (.mode2 d)) ∧
    (d &&& 0x0087#16 = 0x0003#16 → selects (.mode3 d)) ∧
    (d &&& 0x0087#16 = 0x0004#16 → selects (.mode4 d)) ∧
    (d &&& 0x0087#16 = 0x0005#16 → selects (.mode5 d)) ∧
    (d &&& 0x0087#16 = 0x0006#16 → selects (.fblankMode6 d)) ∧
    (d &&& 0x0080#16 = 0x0080#16 → selects (.fblankBit d)) ∧
    (d &&& 0x0087#16 = 0x0007#16 → selects (.mode7 d))

/-- Forced blank writes a white row and nothing else: no line buffer, no other row. In a line the accumulators still
advance (42_backgrounds.md R608). -/
def Obligations.ForcedBlank : Prop :=
  ∀ (s : State) (d : Half), s.line.toNat < 160 →
    exec (.fblankMode6 d) s = .next { s with fb := s.fb.set s.line.toNat (List.replicate 240 0x7FFF#16) } ∧
    exec (.fblankBit d) s = .next { s with fb := s.fb.set s.line.toNat (List.replicate 240 0x7FFF#16) } ∧
    ((reg16 s.mem 0x000).getLsbD 7 = true ∨ (reg16 s.mem 0x000).toNat % 8 = 6 →
      renderLine s =
        advanceAccumulators s.mem { s with fb := s.fb.set s.line.toNat (List.replicate 240 0x7FFF#16) })

/-- MODE7, OBJ_MODE_PROHIBITED and OBJ_SHAPE_PROHIBITED write a row of draws: a free 15-bit value in each pixel of row L,
each with an index of its own, and nothing else (42_backgrounds.md R609, 43_sprites.md R714; the index is the model's,
log entry 5). Each is here a row performed on its own, which is the model's (log entry 12). R714 makes the row of a line a
draw while OBJ_EN = 1; that the two prohibited rows on their own do so with OBJ_EN = 0 too is the model's choice (log entry
18). In a line the gate of R700 holds: SpritePassColumns. -/
def Obligations.UndefinedRows : Prop :=
  ∀ (s : State) (i : Instr), s.line.toNat < 160 →
    ((∃ d, i = .mode7 d) ∨ i = .objModeProhibited ∨ i = .objShapeProhibited) →
    exec i s =
      .next { s with
        draws := s.draws + 240,
        fb := s.fb.set s.line.toNat ((List.range 240).map fun x => Config.freeValue (s.draws + x) &&& 0x7FFF#16) }

/-- The kinds of the background layers in each mode, gated by their enable bits: a text or affine layer by DISPCNT[8+n],
a bitmap never, and a layer of kind OFF is transparent (30_encoding.md R304, 42_backgrounds.md R602 to R607, R610; which
draw a column keeps is the model's, log entry 5). -/
def Obligations.ModeLayers : Prop :=
  ∀ (s : State) (d : Half), s.line.toNat < 160 →
    let m := s.mem
    let off : List Half := List.replicate 240 0x8000#16
    let text : Nat → List Half := fun n =>
      if d.getLsbD (8 + n) then
        if (bgCnt m n).getLsbD 7 then columns (textPixel8 m n (bgCnt m n) s.line.toNat (s.draws + 240 * n))
        else columns (textPixel4 m n (bgCnt m n) s.line.toNat (s.draws + 240 * n))
      else off
    let affine : Nat → BitVec 1 → Acc → List Half := fun n slot acc =>
      if d.getLsbD (8 + n) then
        if (bgCnt m n).getLsbD 13 then columns (affinePixelWrap m slot acc (bgCnt m n) (s.draws + 240 * n))
        else columns (affinePixelClip m slot acc (bgCnt m n) (s.draws + 240 * n))
      else off
    let bitmap : BitmapKind → List Half := fun k =>
      columns (bitmapLayerPixel m Config.mode4Geometry k (d.getLsbD 4).toNat s.acc0 (bgCnt m 2) (s.draws + 480))
    (∃ t, exec (.mode0 d) s = .next t ∧ t.lb0 = text 0 ∧ t.lb1 = text 1 ∧ t.lb2 = text 2 ∧ t.lb3 = text 3) ∧
    (∃ t, exec (.mode1 d) s = .next t ∧ t.lb0 = text 0 ∧ t.lb1 = text 1 ∧ t.lb2 = affine 2 0#1 s.acc0 ∧ t.lb3 = off) ∧
    (∃ t, exec (.mode2 d) s = .next t ∧ t.lb0 = off ∧ t.lb1 = off ∧ t.lb2 = affine 2 0#1 s.acc0 ∧
      t.lb3 = affine 3 1#1 s.acc1) ∧
    (∃ t, exec (.mode3 d) s = .next t ∧ t.lb0 = off ∧ t.lb1 = off ∧ t.lb2 = bitmap .bitmap3 ∧ t.lb3 = off) ∧
    (∃ t, exec (.mode4 d) s = .next t ∧ t.lb0 = off ∧ t.lb1 = off ∧ t.lb2 = bitmap .bitmap4 ∧ t.lb3 = off) ∧
    (∃ t, exec (.mode5 d) s = .next t ∧ t.lb0 = off ∧ t.lb1 = off ∧ t.lb2 = bitmap .bitmap5 ∧ t.lb3 = off)

/-- A mode 0 to 5 fills the sprite buffers by the sprite pass and writes row L and no other: each pixel is composed from
its own column of the six buffers, or, when the pass meets a prohibited record, is a draw; nothing else changes
(42_backgrounds.md R600, 43_sprites.md R714, 44_compositor.md R800, R814; the indices of the draws are the model's, log
entry 5). -/
def Obligations.ModeRows : Prop :=
  ∀ (s : State) (d : Half) (i : Instr), s.line.toNat < 160 →
    i ∈ [Instr.mode0 d, .mode1 d, .mode2 d, .mode3 d, .mode4 d, .mode5 d] →
    ∃ t, exec i s = .next t ∧
      t = { s with
        lb0 := t.lb0, lb1 := t.lb1, lb2 := t.lb2, lb3 := t.lb3, lb4 := t.lb4, lb5 := t.lb5, fb := t.fb,
        draws := s.draws + 1200 } ∧
      t.lb4 = (spritePass s.mem d s.line.toNat).cells.map Prod.fst ∧
      t.lb5 = (spritePass s.mem d s.line.toNat).cells.map Prod.snd ∧
      ((spritePass s.mem d s.line.toNat).prohibited = false →
        t.fb = s.fb.set s.line.toNat
          ((List.range 240).map fun x => composePixel s.mem d s.line.toNat x (columnOf t x))) ∧
      ((spritePass s.mem d s.line.toNat).prohibited = true →
        t.fb = s.fb.set s.line.toNat
          ((List.range 240).map fun x => Config.freeValue (s.draws + 960 + x) &&& 0x7FFF#16))

/-- The renderer writes only the line buffers, the frame buffer and the accumulators (and the model's own counter of
draws): no bus-visible state (20_memory.md R208). -/
def Obligations.RenderWritesNoBusState : Prop :=
  ∀ s : State,
    renderLine s =
      { s with
        lb0 := (renderLine s).lb0, lb1 := (renderLine s).lb1, lb2 := (renderLine s).lb2, lb3 := (renderLine s).lb3,
        lb4 := (renderLine s).lb4, lb5 := (renderLine s).lb5, fb := (renderLine s).fb, acc0 := (renderLine s).acc0,
        acc1 := (renderLine s).acc1, draws := (renderLine s).draws }

/-- The row of a line depends only on the snapshot, the line and the accumulators (and the draws): no value survives in
a line buffer or in another row of the frame buffer that the render reads (10_state.md R131). -/
def Obligations.RowDependsOnTheSnapshotOnly : Prop :=
  ∀ s u : State, s.line.toNat < 160 → s.mem = u.mem → s.line = u.line → s.acc0 = u.acc0 → s.acc1 = u.acc1 →
    s.draws = u.draws → s.fb.length = u.fb.length →
    (renderLine s).fb[s.line.toNat]? = (renderLine u).fb[s.line.toNat]? ∧
      (renderLine s).acc0 = (renderLine u).acc0 ∧ (renderLine s).acc1 = (renderLine u).acc1

/-- With every layer, sprite and window disabled and no effect selected, a line in modes 0 to 2 shows the backdrop,
palette colour 0, in every pixel (42_backgrounds.md R602, 44_compositor.md R807). -/
def Obligations.NothingEnabledShowsBackdrop : Prop :=
  ∀ s : State, s.line.toNat < 160 → reg16 s.mem 0x000 &&& 0xFF80#16 = 0#16 → (reg16 s.mem 0x000).toNat % 8 ≤ 2 →
    reg16 s.mem 0x050 &&& 0x00C0#16 = 0#16 →
    (renderLine s).fb =
      s.fb.set s.line.toNat (List.replicate 240 (s.mem.load16 0x05000000 &&& 0x7FFF#16))

/-! ## Background layers -/

/-- `TextCoord` (42_backgrounds.md R611, R612): the map position is scrolled modulo the extent and then snapped, the
entry's offset is even and inside VRAM, and the entry gives tile and sub-palette with its flips applied to the pixel. The
assignment of SIZE values to extents is the spec's own (R611). -/
def Obligations.TextCoordinates : Prop :=
  ∀ (m : Memory) (n : Nat) (cnt : Half) (x l k : Nat), n < 4 →
    let w := if cnt.getLsbD 14 then 512 else 256
    let h := if cnt.getLsbD 15 then 512 else 256
    let mw := (reg16 m 0x04C).toNat % 16 + 1
    let mv := (reg16 m 0x04C).toNat / 16 % 16 + 1
    let qx := (x + (reg16 m (0x010 + 4 * n)).toNat % 512) % w
    let qy := (l + (reg16 m (0x012 + 4 * n)).toNat % 512) % h
    let px := if cnt.getLsbD 6 then qx - qx % mw else qx
    let py := if cnt.getLsbD 6 then qy - qy % mv else qy
    let eoff := cnt.toNat / 256 % 32 * 0x800 + (px / 256 + py / 256 * (w / 256)) * 0x800 + py % 256 / 8 * 64 +
      px % 256 / 8 * 2
    let e := m.load16 (0x06000000 + eoff)
    eoff % 2 = 0 ∧ eoff ≤ 0x117FE ∧
      textCoord m n cnt x l k =
        { tile := e.toNat % 1024, bank := e.toNat / 4096,
          tx := if e.getLsbD 10 then 7 - px % 8 else px % 8, ty := if e.getLsbD 11 then 7 - py % 8 else py % 8 }

/-- BG_TEXT_4BPP and BG_TEXT_8BPP fill the line buffer of their layer and no other: pixel (tx, ty) of the tile, low
nibble at even tx, index 0 transparent, the colour from the sub-palette or from the index alone; a byte past the end of
VRAM, which only the 8-bit form can reach, is a draw (42_backgrounds.md R613, R614, 20_memory.md R209; the layer on its
own and the index of the draw are the model's, log entries 5 and 12). -/
def Obligations.TextLayers : Prop :=
  ∀ (s : State) (n : BitVec 2) (cnt : Half), s.line.toNat < 160 →
    let m := s.mem
    let c : Nat → TextCoord := fun x => textCoord m n.toNat cnt x s.line.toNat (s.draws + x)
    let base := cnt.toNat / 4 % 4 * 0x4000
    let colour : Nat → Nat → Half := fun idx i =>
      if idx = 0 then 0x8000#16 else m.load16 (0x05000000 + 2 * i) &&& 0x7FFF#16
    let idx4 : Nat → Nat := fun x =>
      let b := (m.read (0x06000000 + (base + (c x).tile * 32 + (c x).ty * 4 + (c x).tx / 2))).toNat
      if (c x).tx % 2 = 0 then b % 16 else b / 16
    let idx8 : Nat → Nat := fun x =>
      let o := base + (c x).tile * 64 + (c x).ty * 8 + (c x).tx
      if o < 0x18000 then (m.read (0x06000000 + o)).toNat else (Config.freeValue (s.draws + x)).toNat % 256
    (exec (.bgText4bpp n cnt) s =
      .next (setLb n ((List.range 240).map fun x => colour (idx4 x) ((c x).bank * 16 + idx4 x))
        { s with draws := s.draws + 240 })) ∧
    (exec (.bgText8bpp n cnt) s =
      .next (setLb n ((List.range 240).map fun x => colour (idx8 x) (idx8 x)) { s with draws := s.draws + 240 }))

/-- BG_AFFINE_CLIP and BG_AFFINE_WRAP fill the line buffer of the layer their slot serves and no other: the position of
column x is the accumulator plus x steps of (pa, pc), rounded; outside the map it is transparent or wraps; then the
mosaic snap, the one-byte map entry and the 8-bit tile pixel (42_backgrounds.md R615 to R619, R622, R623; the layer on
its own and the closed form are the model's, log entries 5, 12 and 19). -/
def Obligations.AffineLayers : Prop :=
  ∀ (s : State) (slot : BitVec 1) (cnt : Half), s.line.toNat < 160 →
    let m := s.mem
    let off := 0x020 + 0x10 * slot.toNat
    let acc := if slot = 0#1 then s.acc0 else s.acc1
    let size := 128 * 2 ^ (cnt.toNat / 16384)
    let ix : Nat → Int := fun x => (acc.x.toInt + x * (reg16 m off).toInt + 128) / 256
    let iy : Nat → Int := fun x => (acc.y.toInt + x * (reg16 m (off + 4)).toInt + 128) / 256
    let mw := (reg16 m 0x04C).toNat % 16 + 1
    let mv := (reg16 m 0x04C).toNat / 16 % 16 + 1
    let texel : Nat → Nat → Half := fun x y =>
      let t := (m.read (0x06000000 + (cnt.toNat / 256 % 32 * 0x800 + y / 8 * (size / 8) + x / 8))).toNat
      let idx := (m.read (0x06000000 + (cnt.toNat / 4 % 4 * 0x4000 + t * 64 + y % 8 * 8 + x % 8))).toNat
      if idx = 0 then 0x8000#16 else m.load16 (0x05000000 + 2 * idx) &&& 0x7FFF#16
    let sample : Nat → Nat → Half := fun x y =>
      if cnt.getLsbD 6 then texel (x - x % mw) (y - y % mv) else texel x y
    let row := if slot = 0#1 then 2#2 else 3#2
    (exec (.bgAffineClip slot cnt) s =
      .next (setLb row
        ((List.range 240).map fun x =>
          if 0 ≤ ix x ∧ ix x < size ∧ 0 ≤ iy x ∧ iy x < size then sample (ix x).toNat (iy x).toNat else 0x8000#16)
        { s with draws := s.draws + 240 })) ∧
    (exec (.bgAffineWrap slot cnt) s =
      .next (setLb row ((List.range 240).map fun x => sample (ix x % size).toNat (iy x % size).toNat)
        { s with draws := s.draws + 240 }))

/-- The running position of 42_backgrounds.md R615, seeded from the accumulator and advanced by (pa, pc) after each
column, is the closed form the model computes (log entry 19); R616 rounds it to a whole pixel. -/
def Obligations.AffineRunningPosition : Prop :=
  ∀ (m : Memory) (slot : BitVec 1) (acc : Acc) (x : Nat),
    let c := (fun p : Int × Int => (p.1 + bgPa m slot, p.2 + bgPc m slot))^[x] (acc.x.toInt, acc.y.toInt)
    affinePosition m slot acc x = ((c.1 + 128) / 256, (c.2 + 128) / 256)

/-- BITMAP3, BITMAP4 and BITMAP5: inside the bitmap the pixel of a position, by the offset, the frame and the palette of
its rule, and TRANSPARENT outside it; index 0 is transparent in BITMAP4; a byte past the end of VRAM is a draw
(42_backgrounds.md R624 to R629, 20_memory.md R209; the pixel is held in `bmpPixel` and counts as one draw, log entries 5
and 12; the size of BITMAP4 is log entry 6). -/
def Obligations.BitmapPixels : Prop :=
  ∀ (s : State) (f : BitVec 1) (ix iy : Word),
    let left : Half → State := fun c => { s with bmpPixel := c, draws := s.draws + 1 }
    let g := Config.mode4Geometry
    let o := f.toNat * 0xA000 + ix.toNat + iy.toNat * g.1
    let idx := if o < 0x18000 then (s.mem.read (0x06000000 + o)).toNat else (Config.freeValue s.draws).toNat % 256
    exec (.bitmap3 ix iy) s =
      .next (left (if ix.toNat < 240 ∧ iy.toNat < 160 then
        s.mem.load16 (0x06000000 + (ix.toNat + iy.toNat * 240) * 2) &&& 0x7FFF#16 else 0x8000#16)) ∧
    exec (.bitmap5 f ix iy) s =
      .next (left (if ix.toNat < 160 ∧ iy.toNat < 128 then
        s.mem.load16 (0x06000000 + (f.toNat * 0xA000 + (ix.toNat + iy.toNat * 160) * 2)) &&& 0x7FFF#16 else 0x8000#16)) ∧
    exec (.bitmap4 f ix iy) s =
      .next (left (if ix.toNat < g.1 ∧ iy.toNat < g.2 ∧ idx ≠ 0 then
        s.mem.load16 (0x05000000 + 2 * idx) &&& 0x7FFF#16 else 0x8000#16))

/-- The bitmap layer of modes 3, 4 and 5, column by column: the position of column x is the accumulator of slot 0 plus x
steps of (pa, pc), rounded; outside the bitmap it is transparent and never wraps; inside, the mosaic snap and then the pixel
rule of the mode, frame DISPCNT[4] in modes 4 and 5 (42_backgrounds.md R605 to R607, R624 to R629; the closed form, the
index of the draw and the size of the bitmap of mode 4 are the model's, log entries 5, 6 and 19). -/
def Obligations.BitmapLayers : Prop :=
  ∀ (s : State) (d : Half), s.line.toNat < 160 →
    let m := s.mem
    let g := Config.mode4Geometry
    let f := d.toNat / 16 % 2
    let ix : Nat → Int := fun x => (s.acc0.x.toInt + x * (reg16 m 0x020).toInt + 128) / 256
    let iy : Nat → Int := fun x => (s.acc0.y.toInt + x * (reg16 m 0x024).toInt + 128) / 256
    let mw := (reg16 m 0x04C).toNat % 16 + 1
    let mv := (reg16 m 0x04C).toNat / 16 % 16 + 1
    let mosaic := (reg16 m 0x00C).getLsbD 6
    let shown : Nat → Nat → (Nat → Nat → Nat → Half) → List Half := fun w h pixel =>
      (List.range 240).map fun x =>
        let px := (ix x).toNat
        let py := (iy x).toNat
        if 0 ≤ ix x ∧ ix x < w ∧ 0 ≤ iy x ∧ iy x < h then
          (if mosaic then pixel x (px - px % mw) (py - py % mv) else pixel x px py)
        else 0x8000#16
    let pixel3 : Nat → Nat → Nat → Half := fun _ i j => m.load16 (0x06000000 + (i + j * 240) * 2) &&& 0x7FFF#16
    let pixel4 : Nat → Nat → Nat → Half := fun x i j =>
      let o := f * 0xA000 + i + j * g.1
      let idx :=
        if o < 0x18000 then (m.read (0x06000000 + o)).toNat else (Config.freeValue (s.draws + 480 + x)).toNat % 256
      if idx = 0 then 0x8000#16 else m.load16 (0x05000000 + 2 * idx) &&& 0x7FFF#16
    let pixel5 : Nat → Nat → Nat → Half := fun _ i j =>
      m.load16 (0x06000000 + (f * 0xA000 + (i + j * 160) * 2)) &&& 0x7FFF#16
    (∃ t, exec (.mode3 d) s = .next t ∧ t.lb2 = shown 240 160 pixel3) ∧
    (∃ t, exec (.mode4 d) s = .next t ∧ t.lb2 = shown g.1 g.2 pixel4) ∧
    (∃ t, exec (.mode5 d) s = .next t ∧ t.lb2 = shown 160 128 pixel5)

/-- With the identity matrix, no mosaic and the origin at the top left, mode 3 reads the bitmap unscaled: column x of line
buffer 2 at line L is pixel (x, L). With sprites and windows disabled and no effect selected the row of the frame buffer
shows it: FB[L][x] is that pixel with bit 15 clear (42_backgrounds.md R605, R624, R625, 44_compositor.md R806, R809). -/
def Obligations.Mode3ShowsTheBitmap : Prop :=
  ∀ (s : State) (d : Half), s.line.toNat < 160 → reg16 s.mem 0x020 = 0x0100#16 → reg16 s.mem 0x024 = 0#16 →
    (bgCnt s.mem 2).getLsbD 6 = false → s.acc0.x = 0#28 → s.acc0.y = BitVec.ofNat 28 (256 * s.line.toNat) →
    let row := (List.range 240).map fun x => s.mem.load16 (0x06000000 + (x + s.line.toNat * 240) * 2) &&& 0x7FFF#16
    ∃ t, exec (.mode3 d) s = .next t ∧ t.lb2 = row ∧
      (d.toNat / 4096 = 0 → reg16 s.mem 0x050 &&& 0x00C0#16 = 0#16 → t.fb = s.fb.set s.line.toNat row)

/-! ## Sprites -/

/-- The box table (43_sprites.md R703); the box is held in `box`, log entry 12. -/
def Obligations.SpriteBoxes : Prop :=
  ∀ s : State,
    exec (.objShapeSquare 0#2) s = .next { s with box := (8, 8) } ∧
    exec (.objShapeSquare 1#2) s = .next { s with box := (16, 16) } ∧
    exec (.objShapeSquare 2#2) s = .next { s with box := (32, 32) } ∧
    exec (.objShapeSquare 3#2) s = .next { s with box := (64, 64) } ∧
    exec (.objShapeHorizontal 0#2) s = .next { s with box := (16, 8) } ∧
    exec (.objShapeHorizontal 1#2) s = .next { s with box := (32, 8) } ∧
    exec (.objShapeHorizontal 2#2) s = .next { s with box := (32, 16) } ∧
    exec (.objShapeHorizontal 3#2) s = .next { s with box := (64, 32) } ∧
    exec (.objShapeVertical 0#2) s = .next { s with box := (8, 16) } ∧
    exec (.objShapeVertical 1#2) s = .next { s with box := (8, 32) } ∧
    exec (.objShapeVertical 2#2) s = .next { s with box := (16, 32) } ∧
    exec (.objShapeVertical 3#2) s = .next { s with box := (32, 64) }

/-- OBJ_REGULAR flips, OBJ_AFFINE and OBJ_AFFINE_DOUBLE rotate about the middle of the display box through the parameter
set of the record, and OBJ_HIDDEN does nothing (43_sprites.md R706, R707, R716, R713, 30_encoding.md R314; the texel is
held in `texel`, log entry 12). -/
def Obligations.SpriteTexels : Prop :=
  ∀ (s : State) (a1 : Half) (w h bx ry : Byte),
    let par : Nat → Int := fun j => (s.mem.load16 (0x07000000 + (0x20 * (a1.toNat / 512 % 32) + 0x06 + 8 * j))).toInt
    let rotated : Int → Int → Texel := fun dx dy =>
      let tx := (par 0 * dx + par 1 * dy) / 256 + (w.toNat / 2 : Nat)
      let ty := (par 2 * dx + par 3 * dy) / 256 + (h.toNat / 2 : Nat)
      { ok := decide (0 ≤ tx ∧ tx < w.toNat ∧ 0 ≤ ty ∧ ty < h.toNat), tx := tx, ty := ty }
    exec (.objRegular a1 w h bx ry) s =
      .next { s with
        texel :=
          { ok := true, tx := if a1.getLsbD 12 then (w.toNat : Int) - 1 - bx.toNat else bx.toNat,
            ty := if a1.getLsbD 13 then (h.toNat : Int) - 1 - ry.toNat else ry.toNat } } ∧
    exec (.objAffine a1 w h bx ry) s =
      .next { s with
        texel := rotated ((bx.toNat : Int) - (w.toNat / 2 : Nat)) ((ry.toNat : Int) - (h.toNat / 2 : Nat)) } ∧
    exec (.objAffineDouble a1 w h bx ry) s =
      .next { s with texel := rotated ((bx.toNat : Int) - w.toNat) ((ry.toNat : Int) - h.toNat) } ∧
    exec .objHidden s = .next s

/-- The tile numbers of the two mappings, modulo 1024, and the pixel fetch of the two depths through the mapping of
DISPCNT[6], whose offset stays in the sprite area of VRAM (43_sprites.md R709, R710, R711, R721; held in `tileNum` and
`objPixel`, log entry 12; that a mapping row on its own is performed whatever DISPCNT[6] holds is the model's choice, log
entry 18). -/
def Obligations.SpriteTilesAndPixels : Prop :=
  ∀ (s : State) (t : BitVec 10) (a2 : Half) (w : Byte) (deep : Bool) (tx ty : BitVec 6),
    let tile1 : Nat → Nat → Nat := fun b k => (b + ty.toNat / 8 * (w.toNat / 8) * k + tx.toNat / 8 * k) % 1024
    let tile2 : Nat → Nat → Nat := fun b k => (b + ty.toNat / 8 * 32 + tx.toNat / 8 * k) % 1024
    let tile : Nat → Nat := fun k =>
      if (reg16 s.mem 0x000).getLsbD 6 then tile1 (a2.toNat % 1024) k else tile2 (a2.toNat % 1024) k
    let byte4 := (s.mem.read (0x06010000 + (tile 1 * 32 + ty.toNat % 8 * 4 + tx.toNat % 8 / 2) % 0x8000)).toNat
    let idx4 := if tx.toNat % 2 = 0 then byte4 % 16 else byte4 / 16
    let idx8 := (s.mem.read (0x06010000 + (tile 2 * 32 + ty.toNat % 8 * 8 + tx.toNat % 8) % 0x8000)).toNat
    let k := if deep then 2 else 1
    exec (.objMap1d t w deep tx ty) s = .next { s with tileNum := BitVec.ofNat 10 (tile1 t.toNat k) } ∧
    exec (.objMap2d t deep tx ty) s = .next { s with tileNum := BitVec.ofNat 10 (tile2 t.toNat k) } ∧
    exec (.obj4bpp a2 w tx ty) s =
      .next { s with
        objPixel := (BitVec.ofNat 8 idx4,
          s.mem.load16 (0x05000000 + 2 * (256 + a2.toNat / 4096 * 16 + idx4)) &&& 0x7FFF#16) } ∧
    exec (.obj8bpp a2 w tx ty) s =
      .next { s with
        objPixel := (BitVec.ofNat 8 idx8, s.mem.load16 (0x05000000 + 2 * (256 + idx8)) &&& 0x7FFF#16) }

/-- `WritePixel` in its three modes: a pixel whose priority is not worse replaces the column's info entry, and its colour
too unless the mode is object window; a worse one changes nothing; no other column changes; a column off the screen is
skipped (43_sprites.md R712, R717, R718, R719, R705; that the rows are performed on their own, whatever OBJ_EN holds and also
while OAM holds a prohibited record, is the model's, log entries 12 and 18). -/
def Obligations.SpritePixelWrites : Prop :=
  ∀ (s : State) (x : Byte) (prio : BitVec 2) (c : BitVec 15),
    (240 ≤ x.toNat →
      exec (.objModeNormal x prio c) s = .next s ∧ exec (.objModeSemi x prio c) s = .next s ∧
        exec (.objModeWindow x prio c) s = .next s) ∧
    ∀ i : Info, x.toNat < 240 → s.lb5[x.toNat]? = some i → x.toNat < s.lb4.length →
      (prio.toNat ≤ i.prio.toNat →
        exec (.objModeNormal x prio c) s =
          .next { s with
            lb4 := s.lb4.set x.toNat (0#1 ++ c),
            lb5 := s.lb5.set x.toNat { prio := prio, mode := 0#2, semi := false } } ∧
        exec (.objModeSemi x prio c) s =
          .next { s with
            lb4 := s.lb4.set x.toNat (0#1 ++ c),
            lb5 := s.lb5.set x.toNat { prio := prio, mode := 1#2, semi := true } } ∧
        exec (.objModeWindow x prio c) s =
          .next { s with lb5 := s.lb5.set x.toNat { prio := prio, mode := 2#2, semi := false } }) ∧
      (i.prio.toNat < prio.toNat →
        exec (.objModeNormal x prio c) s = .next s ∧ exec (.objModeSemi x prio c) s = .next s ∧
          exec (.objModeWindow x prio c) s = .next s)

/-- The sprite pass, column by column: with OBJ_EN = 0 every column keeps its initial entry; with OBJ_EN = 1 the line is
prohibited exactly when some record that is not hidden has mode 3 or shape 3; otherwise a column is its initial entry
with the records applied to it from 127 down to 0, whatever the other columns hold (43_sprites.md R700, R701, R714; that
the records act column by column is deduced, log entry 19). -/
def Obligations.SpritePassColumns : Prop :=
  ∀ (m : Memory) (d : Half) (l x : Nat), x < 240 →
    let bad := ∃ r, r < 128 ∧
      (let a0 := m.load16 (0x07000000 + 8 * r);
        a0.toNat / 256 % 4 ≠ 2 ∧ (a0.toNat / 1024 % 4 = 3 ∨ a0.toNat / 16384 = 3))
    (spritePass m d l).cells.length = 240 ∧
    (d.getLsbD 12 = false →
      (spritePass m d l).prohibited = false ∧
        (spritePass m d l).cells[x]? = some (0x8000#16, { prio := 3#2, mode := 0#2, semi := false })) ∧
    (d.getLsbD 12 = true → ((spritePass m d l).prohibited = true ↔ bad)) ∧
    (d.getLsbD 12 = true → ¬ bad →
      (spritePass m d l).cells[x]? =
        some ((List.range 128).foldr (fun r cell => recordColumn m d l r x cell)
          (0x8000#16, { prio := 3#2, mode := 0#2, semi := false })))

/-- What one record does to a column, for every record that is not prohibited: nothing when it is hidden, when its display
box, doubled for a double-size record, does not cover the line (modulo 256) or the column, when its texel is outside the
sprite, or when the palette index is 0; else `WritePixel` in the mode of the record. The box is the table of shape and size;
the texel is flipped in a regular record and rotated by its parameter set in the others; the tile is numbered by the mapping
of DISPCNT[6] and the pixel fetched at the depth of the record (43_sprites.md R702 to R713, R716 to R719, R721; that the
columns of a record are independent is deduced, log entry 19). -/
def Obligations.SpriteRecordHits : Prop :=
  ∀ (m : Memory) (d : Half) (l r x : Nat) (cell : SpriteCell),
    let a0 := m.load16 (0x07000000 + 8 * r)
    let a1 := m.load16 (0x07000000 + (8 * r + 2))
    let a2 := m.load16 (0x07000000 + (8 * r + 4))
    let kind := a0.toNat / 256 % 4
    let shape := a0.toNat / 16384
    let size := a1.toNat / 16384
    let w : Nat := (([[8, 16, 32, 64], [16, 32, 32, 64], [8, 8, 16, 32]] : List (List Nat)).getD shape []).getD size 0
    let h : Nat := (([[8, 16, 32, 64], [8, 8, 16, 32], [16, 32, 32, 64]] : List (List Nat)).getD shape []).getD size 0
    let dw := if kind = 3 then 2 * w else w
    let dh := if kind = 3 then 2 * h else h
    let ry := ((l : Int) - (a0.toNat % 256 : Nat)) % 256
    let bx := (x : Int) - (a1.extractLsb' 0 9).toInt
    let par : Nat → Int := fun j => (m.load16 (0x07000000 + (0x20 * (a1.toNat / 512 % 32) + 0x06 + 8 * j))).toInt
    let dx := bx - (dw / 2 : Nat)
    let dy := ry - (dh / 2 : Nat)
    let tx : Int :=
      if kind = 0 then (if a1.getLsbD 12 then (w : Int) - 1 - bx else bx)
      else (par 0 * dx + par 1 * dy) / 256 + (w / 2 : Nat)
    let ty : Int :=
      if kind = 0 then (if a1.getLsbD 13 then (h : Int) - 1 - ry else ry)
      else (par 2 * dx + par 3 * dy) / 256 + (h / 2 : Nat)
    let deep := a0.getLsbD 13
    let k := if deep then 2 else 1
    let tile : Nat :=
      if d.getLsbD 6 then (a2.toNat % 1024 + ty.toNat / 8 * (w / 8) * k + tx.toNat / 8 * k) % 1024
      else (a2.toNat % 1024 + ty.toNat / 8 * 32 + tx.toNat / 8 * k) % 1024
    let b4 := (m.read (0x06010000 + (tile * 32 + ty.toNat % 8 * 4 + tx.toNat % 8 / 2) % 0x8000)).toNat
    let b8 := (m.read (0x06010000 + (tile * 32 + ty.toNat % 8 * 8 + tx.toNat % 8) % 0x8000)).toNat
    let idx := if deep then b8 else if tx.toNat % 2 = 0 then b4 % 16 else b4 / 16
    let colour := m.load16 (0x05000000 + 2 * (256 + (if deep then 0 else a2.toNat / 4096 * 16) + idx)) &&& 0x7FFF#16
    let covered := ry < dh ∧ 0 ≤ bx ∧ bx < dw
    let inside := 0 ≤ tx ∧ tx < w ∧ 0 ≤ ty ∧ ty < h
    (kind = 2 → recordColumn m d l r x cell = cell) ∧
    (kind ≠ 2 → shape ≠ 3 → ¬ (covered ∧ inside) → recordColumn m d l r x cell = cell) ∧
    (kind ≠ 2 → shape ≠ 3 → covered → inside →
      recordColumn m d l r x cell =
        if idx = 0 ∨ cell.2.prio.toNat < a2.toNat / 1024 % 4 then cell
        else (if a0.toNat / 1024 % 4 = 2 then cell.1 else colour,
          { prio := a2.extractLsb' 10 2, mode := a0.extractLsb' 10 2, semi := decide (a0.toNat / 1024 % 4 = 1) }))

/-! ## The compositor -/

/-- The window that owns a pixel, in the precedence window 0, window 1, object window, outside, and none when no window
is enabled, with its layer mask and effects flag (44_compositor.md R801 to R805, R816, R817). -/
def Obligations.WindowControls : Prop :=
  ∀ (m : Memory) (x l : Nat) (info : Info),
    let d := reg16 m 0x000
    let in0 := d.getLsbD 13 = true ∧ rectHolds (reg16 m 0x040) (reg16 m 0x044) x l
    let in1 := d.getLsbD 14 = true ∧ rectHolds (reg16 m 0x042) (reg16 m 0x046) x l
    let inObj := d.getLsbD 15 = true ∧ info.mode = 2#2
    let winin := reg16 m 0x048
    let winout := reg16 m 0x04A
    (d.toNat / 8192 = 0 → windowControl m d x l info = (0b11111#5, true)) ∧
    (in0 → windowControl m d x l info = (winin.extractLsb' 0 5, winin.getLsbD 5)) ∧
    (¬ in0 → in1 → windowControl m d x l info = (winin.extractLsb' 8 5, winin.getLsbD 13)) ∧
    (¬ in0 → ¬ in1 → inObj → windowControl m d x l info = (winout.extractLsb' 8 5, winout.getLsbD 13)) ∧
    (d.toNat / 8192 ≠ 0 → ¬ in0 → ¬ in1 → ¬ inObj →
      windowControl m d x l info = (winout.extractLsb' 0 5, winout.getLsbD 5))

/-- The window rows performed at a pixel of the current line that they own leave its control (44_compositor.md R803,
R804, R805, R816, R817; that it is held in `winMask` and `winFx`, and set on lines 160 to 227 too, is the model's, log
entries 12 and 13). That they act where no compositor runs for another reason, and take the info entry as it stands whatever
OBJ_EN is, is the model's choice too (log entry 18). -/
def Obligations.WindowRows : Prop :=
  ∀ (s : State) (x : Byte),
    let m := s.mem
    let d := reg16 m 0x000
    let l := s.line.toNat
    let info := (columnOf s x.toNat).info
    let in0 := d.getLsbD 13 = true ∧ rectHolds (reg16 m 0x040) (reg16 m 0x044) x.toNat l
    let in1 := d.getLsbD 14 = true ∧ rectHolds (reg16 m 0x042) (reg16 m 0x046) x.toNat l
    let inObj := d.getLsbD 15 = true ∧ info.mode = 2#2
    let ctl : State :=
      { s with winMask := (windowControl m d x.toNat l info).1, winFx := (windowControl m d x.toNat l info).2 }
    (d.toNat / 8192 = 0 → exec (.winNone x) s = .next ctl) ∧
    (in0 → exec (.win0 x) s = .next ctl) ∧
    (¬ in0 → in1 → exec (.win1 x) s = .next ctl) ∧
    (¬ in0 → ¬ in1 → inObj → exec (.winObj x) s = .next ctl) ∧
    (d.toNat / 8192 ≠ 0 → ¬ in0 → ¬ in1 → ¬ inObj → exec (.winOut x) s = .next ctl)

/-- The two properties that 44_compositor.md R815 derives from R806 and R807: the first candidate's priority is not greater than the second's, and a
layer whose mask bit is 0 is neither. -/
def Obligations.CandidatesOrdered : Prop :=
  ∀ (m : Memory) (mask : BitVec 5) (q : LineColumn),
    (candidates m mask q).first.p.toNat ≤ (candidates m mask q).second.p.toNat ∧
    ∀ k ∈ [(candidates m mask q).first, (candidates m mask q).second],
      k.id ≠ .bd → mask.getLsbD (layerIndex k.id) = true

/-- The candidates are the two frontmost of the enabled opaque layer pixels, backed by the backdrop: none of those is in
front of the first, none but the first is in front of the second, and among equals each is the one visited last in the order
BG3, BG2, BG1, BG0, OBJ (44_compositor.md R806, R807). -/
def Obligations.CandidatesAreFrontmost : Prop :=
  ∀ (m : Memory) (mask : BitVec 5) (q : LineColumn),
    let all : List Candidate :=
      [{ c := q.c3, p := (bgCnt m 3).extractLsb' 0 2, id := .bg3 }, { c := q.c2, p := (bgCnt m 2).extractLsb' 0 2, id := .bg2 },
        { c := q.c1, p := (bgCnt m 1).extractLsb' 0 2, id := .bg1 }, { c := q.c0, p := (bgCnt m 0).extractLsb' 0 2, id := .bg0 },
        { c := q.c4, p := q.info.prio, id := .obj }]
    let shown := all.filter fun k => mask.getLsbD (layerIndex k.id) && k.c != 0x8000#16
    let bd : Candidate := { c := m.load16 0x05000000 &&& 0x7FFF#16, p := 3#2, id := .bd }
    let r := candidates m mask q
    let visit : LayerId → Nat := fun id => if id = .obj then 4 else 3 - layerIndex id
    (shown = [] → r.first = bd) ∧ (shown ≠ [] → r.first ∈ shown) ∧
    (∀ k ∈ shown, r.first.p.toNat ≤ k.p.toNat ∧ (k.p = r.first.p → visit k.id ≤ visit r.first.id)) ∧
    (shown.length ≤ 1 → r.second = bd) ∧ (2 ≤ shown.length → r.second ∈ shown ∧ r.second.id ≠ r.first.id) ∧
    ∀ k ∈ shown, k.id ≠ r.first.id →
      r.second.p.toNat ≤ k.p.toNat ∧ (k.p = r.second.p → visit k.id ≤ visit r.second.id)

/-- The colour of the effect rows at a pixel of the current line, from the window control and the column's candidates:
effects off or no effect shows the first candidate, a semi-transparent or object-window sprite in front is blended
whatever BLDCNT says, and the selected effect acts by its participation bits; only that pixel of the frame buffer
changes (44_compositor.md R808 to R812, R814; the rows on their own, and that one whose Encoding fails on the pixel writes
what ApplyEffect gives, are the model's, log entries 12, 13 and 18). -/
def Obligations.EffectPixels : Prop :=
  ∀ (s : State) (bld : Half) (x : Byte), s.line.toNat < 160 → x.toNat < 240 →
    let m := s.mem
    let info := (columnOf s x.toNat).info
    let cs := candidates m s.winMask (columnOf s x.toNat)
    let blended := alpha (evaOf m) (evbOf m) cs.first.c cs.second.c
    let forced := s.winFx = true ∧ cs.first.id = .obj ∧ (info.mode = 1#2 ∨ info.mode = 2#2)
    let t1 := bld.getLsbD (layerIndex cs.first.id)
    let t2 := bld.getLsbD (8 + layerIndex cs.second.id)
    let shows : Half → State := fun c =>
      { s with fb := s.fb.set s.line.toNat ((s.fb.getD s.line.toNat []).set x.toNat c) }
    let row : Half → State := fun c =>
      shows (if s.winFx = false then cs.first.c
        else if cs.first.id = .obj ∧ (info.mode = 1#2 ∨ info.mode = 2#2) then blended else c)
    exec (.effNone bld x) s = .next (row cs.first.c) ∧
    exec (.effAlpha bld x) s = .next (row (if t1 && t2 then blended else cs.first.c)) ∧
    exec (.effBrighten bld x) s = .next (row (if t1 then brighten (evyOf m) cs.first.c else cs.first.c)) ∧
    exec (.effDarken bld x) s = .next (row (if t1 then darken (evyOf m) cs.first.c else cs.first.c)) ∧
    (forced → exec (.effForcedAlpha x) s = .next (shows blended))

/-- A pixel of a row that a mode 0 to 5 composes: with its window's effects off the first candidate; a semi-transparent or
object-window sprite in front is blended whatever BLDCNT says; else the effect that BLDCNT[7:6] selects, by its
participation bits. The columns are those of the six line buffers that the mode leaves (44_compositor.md R800, R808 to R812,
R814). -/
def Obligations.ComposedPixels : Prop :=
  ∀ (s : State) (d : Half) (i : Instr), s.line.toNat < 160 → s.line.toNat < s.fb.length →
    i ∈ [Instr.mode0 d, .mode1 d, .mode2 d, .mode3 d, .mode4 d, .mode5 d] →
    (spritePass s.mem d s.line.toNat).prohibited = false →
    ∃ t, exec i s = .next t ∧ ∀ x, x < 240 →
      let m := s.mem
      let q := columnOf t x
      let ctl := windowControl m d x s.line.toNat q.info
      let cs := candidates m ctl.1 q
      let bld := reg16 m 0x050
      let t1 := bld.getLsbD (layerIndex cs.first.id)
      let t2 := bld.getLsbD (8 + layerIndex cs.second.id)
      let blended := alpha (evaOf m) (evbOf m) cs.first.c cs.second.c
      (t.fb.getD s.line.toNat [])[x]? =
        some (if ctl.2 = false then cs.first.c
          else if cs.first.id = .obj ∧ (q.info.mode = 1#2 ∨ q.info.mode = 2#2) then blended
          else if bld.toNat / 64 % 4 = 0 then cs.first.c
          else if bld.toNat / 64 % 4 = 1 then (if t1 && t2 then blended else cs.first.c)
          else if bld.toNat / 64 % 4 = 2 then (if t1 then brighten (evyOf m) cs.first.c else cs.first.c)
          else if t1 then darken (evyOf m) cs.first.c else cs.first.c)

/-- The coefficients are at most 16 (44_compositor.md R813), each channel of a blended, brightened or darkened colour is the
value of its rule (R810, R811, R812), and bit 15 is clear, which R814 infers from R806 to R812. -/
def Obligations.EffectChannels : Prop :=
  (∀ m : Memory, evaOf m = min ((reg16 m 0x052).toNat % 32) 16 ∧ evbOf m = min ((reg16 m 0x052).toNat / 256 % 32) 16 ∧
      evyOf m = min ((reg16 m 0x054).toNat % 32) 16) ∧
    ∀ (eva evb evy : Nat) (t b : Half), evy ≤ 16 →
      (let r := alpha eva evb t b;
        chanR r = min 31 ((chanR t * eva + 8) / 16 + (chanR b * evb + 8) / 16) ∧
        chanG r = min 31 ((chanG t * eva + 8) / 16 + (chanG b * evb + 8) / 16) ∧
        chanB r = min 31 ((chanB t * eva + 8) / 16 + (chanB b * evb + 8) / 16) ∧ opaqueColour r) ∧
      (let r := brighten evy t;
        chanR r = chanR t + ((31 - chanR t) * evy + 8) / 16 ∧ chanG r = chanG t + ((31 - chanG t) * evy + 8) / 16 ∧
        chanB r = chanB t + ((31 - chanB t) * evy + 8) / 16 ∧ opaqueColour r) ∧
      (let r := darken evy t;
        chanR r = chanR t - (chanR t * evy + 8) / 16 ∧ chanG r = chanG t - (chanG t * evy + 8) / 16 ∧
        chanB r = chanB t - (chanB t * evy + 8) / 16 ∧ opaqueColour r)

/-- The identities of the effects: EVA = 16 with EVB = 0 gives the top colour, EVY = 0 changes nothing, EVY = 16 gives
white or black (44_compositor.md R810, R811, R812). -/
def Obligations.EffectIdentities : Prop :=
  ∀ t b : Half, opaqueColour t →
    alpha 16 0 t b = t ∧ brighten 0 t = t ∧ darken 0 t = t ∧ brighten 16 t = 0x7FFF#16 ∧ darken 16 t = 0x0000#16
end

