-- ==== Sys2Proof/Laws/Encoding.lean ====
section
/-! SUPPORT. Bytes and words of a frame: a word is its four bytes, the fields of an encoded frame come back, and a
frame's bytes are read as that frame. -/

namespace Sys2Proof

/-- A word is its four bytes. -/
@[simp] theorem word4_bytes (w : Word) : word4 (byteOf w 3) (byteOf w 2) (byteOf w 1) (byteOf w 0) = w := by
  unfold word4 byteOf
  apply BitVec.eq_of_getLsbD_eq
  intro i hi
  simp only [BitVec.getLsbD_append, BitVec.getLsbD_extractLsb']
  split
  · rename_i h; simp [h]
  · split
    · rename_i h; simp [h]; congr 1; omega
    · split
      · rename_i h; simp [h]; congr 1; omega
      · have h4 : i - 8 - 8 - 8 < 8 := by omega
        simp [h4]; congr 1; omega

/-- A halfword is its two bytes. -/
@[simp] theorem half_bytes (h : Half) : h.extractLsb' 8 8 ++ h.extractLsb' 0 8 = h := by
  apply BitVec.eq_of_getLsbD_eq
  intro i hi
  simp only [BitVec.getLsbD_append, BitVec.getLsbD_extractLsb']
  split
  · rename_i h; simp [h]
  · have h4 : i - 8 < 8 := by omega
    simp [h4]; congr 1; omega

/-- Byte 0 of four bytes. -/
@[simp] theorem byteOf_word4_0 (b3 b2 b1 b0 : Byte) : byteOf (word4 b3 b2 b1 b0) 0 = b0 := by
  apply BitVec.eq_of_getLsbD_eq
  intro i hi
  simp only [byteOf, word4, BitVec.getLsbD_append, BitVec.getLsbD_extractLsb']
  simp [hi]

/-- Byte 1 of four bytes. -/
@[simp] theorem byteOf_word4_1 (b3 b2 b1 b0 : Byte) : byteOf (word4 b3 b2 b1 b0) 1 = b1 := by
  apply BitVec.eq_of_getLsbD_eq
  intro i hi
  have h1 : ¬ (8 + i < 8) := by omega
  have h2 : 8 + i - 8 = i := by omega
  simp only [byteOf, word4, BitVec.getLsbD_append, BitVec.getLsbD_extractLsb']
  simp [hi, h1, h2]

/-- Byte 2 of four bytes. -/
@[simp] theorem byteOf_word4_2 (b3 b2 b1 b0 : Byte) : byteOf (word4 b3 b2 b1 b0) 2 = b2 := by
  apply BitVec.eq_of_getLsbD_eq
  intro i hi
  have h1 : ¬ (16 + i < 8) := by omega
  have h2 : ¬ (16 + i - 8 < 8) := by omega
  have h3 : 16 + i - 8 - 8 = i := by omega
  simp only [byteOf, word4, BitVec.getLsbD_append, BitVec.getLsbD_extractLsb']
  simp [hi, h1, h2, h3]

/-- Byte 3 of four bytes. -/
@[simp] theorem byteOf_word4_3 (b3 b2 b1 b0 : Byte) : byteOf (word4 b3 b2 b1 b0) 3 = b3 := by
  apply BitVec.eq_of_getLsbD_eq
  intro i hi
  have h1 : ¬ (24 + i < 8) := by omega
  have h2 : ¬ (24 + i - 8 < 8) := by omega
  have h3 : ¬ (24 + i - 8 - 8 < 8) := by omega
  have h4 : 24 + i - 8 - 8 - 8 = i := by omega
  simp only [byteOf, word4, BitVec.getLsbD_append, BitVec.getLsbD_extractLsb']
  simp [hi, h1, h2, h3, h4]

/-- The low bits of a value with zeros in front of it. -/
theorem extract_low (n k : Nat) (z : BitVec k) (v : BitVec n) : (z ++ v).extractLsb' 0 n = v := by
  apply BitVec.eq_of_getLsbD_eq
  intro i hi
  simp [BitVec.getLsbD_append, hi]

@[simp] theorem low_half_word (v : BitVec 16) : BitVec.extractLsb' 0 16 (0#16 ++ v : Word) = v := extract_low 16 16 0#16 v

@[simp] theorem low_bit_byte (v : BitVec 1) : BitVec.extractLsb' 0 1 (0#7 ++ v : Byte) = v := extract_low 1 7 0#7 v

@[simp] theorem low_tile_word (v : BitVec 10) : BitVec.extractLsb' 0 10 (0#22 ++ v : Word) = v := extract_low 10 22 0#22 v

@[simp] theorem low_coord_byte (v : BitVec 6) : BitVec.extractLsb' 0 6 (0#2 ++ v : Byte) = v := extract_low 6 2 0#2 v

@[simp] theorem low_pair_byte (v : BitVec 2) : BitVec.extractLsb' 0 2 (0#6 ++ v : Byte) = v := extract_low 2 6 0#6 v

@[simp] theorem low_pair_word (v : BitVec 2) : BitVec.extractLsb' 0 2 (0#30 ++ v : Word) = v := extract_low 2 30 0#30 v

@[simp] theorem low_colour_word (v : BitVec 15) : BitVec.extractLsb' 0 15 (0#17 ++ v : Word) = v := extract_low 15 17 0#17 v

/-- A frame's bytes are read as that frame. -/
@[simp] theorem frameOf?_bytes (f : Frame) : frameOf? f.bytes = some f := by
  simp [frameOf?, Frame.bytes]

/-- Decoding an encoded operation is decoding its frame. -/
theorem decode_encode (i : Instr) : decode (encode i) = decodeFrame (encodeFrame i) := by
  simp [decode, encode]

/-- A frame of a format of its own is decoded as that format. -/
theorem decodeFrame_format {f : Frame} (h : f.tag ≠ 14#8) : decodeFrame f = decodeAs f.tag.toNat f := by
  simp [decodeFrame, h]

end Sys2Proof
end

