-- ==== Sys2Proof/Laws/Fields.lean ====
section
/-! SUPPORT. The fields of registers as arithmetic, the channels of a colour, and the shared computations over them:
extents, nibbles, rounding, windows, effects. -/

namespace Sys2Proof.Machine

/-- A field by division (00_scope.md R8). -/
theorem field_eq {n : Nat} (v : BitVec n) (lo len : Nat) : field v lo len = v.toNat / 2 ^ lo % 2 ^ len := by
  simp [field, Nat.shiftRight_eq_div_pow]

/-- A field that ends at the top bit of a halfword. -/
theorem field_top (v : Half) (lo len : Nat) (h : lo + len = 16) : field v lo len = v.toNat / 2 ^ lo := by
  rw [field_eq, Nat.mod_eq_of_lt]
  rw [Nat.div_lt_iff_lt_mul (by positivity), ← pow_add, Nat.add_comm, h]
  exact v.isLt

/-- Bit `i` by division. -/
theorem getLsbD_eq_div {n : Nat} (v : BitVec n) (i : Nat) : v.getLsbD i = decide (v.toNat / 2 ^ i % 2 = 1) :=
  Nat.testBit_eq_decide_div_mod_eq

/-- The nibble of a pixel (30_encoding.md R307). -/
theorem nibble_eq (b : Byte) (tx : Nat) : nibble b tx = if tx % 2 = 0 then b.toNat % 16 else b.toNat / 16 := by
  have := b.isLt
  unfold nibble
  split
  · simp [field_eq]
  · rw [field_eq]; simp; omega

/-- The low 28 bits of a reference point (30_encoding.md R321). -/
theorem refPoint_eq (v : Word) : refPoint v = v.setWidth 28 := by
  apply BitVec.eq_of_getLsbD_eq; intro i hi; simp [refPoint, hi]

/-- Round8 by floor division (42_backgrounds.md R616). -/
theorem round8_eq (v : Int) : round8 v = (v + 128) / 256 := Int.shiftRight_eq_div_pow (v + 128) 8

/-- The extent of a tiled layer, axis by axis (42_backgrounds.md R611). -/
theorem textExtent_eq (cnt : Half) :
    textExtent cnt = (if cnt.getLsbD 14 then 512 else 256, if cnt.getLsbD 15 then 512 else 256) := by
  have h := cnt.isLt
  have hq : cnt.toNat / 16384 = 0 ∨ cnt.toNat / 16384 = 1 ∨ cnt.toNat / 16384 = 2 ∨ cnt.toNat / 16384 = 3 := by omega
  have h2 : cnt.toNat / 32768 = cnt.toNat / 16384 / 2 := by omega
  unfold textExtent
  rw [field_top cnt 14 2 rfl, getLsbD_eq_div cnt 14, getLsbD_eq_div cnt 15]
  norm_num [h2]
  rcases hq with hq | hq | hq | hq <;> simp [hq]

/-- `InSpan` (44_compositor.md R802). -/
theorem inSpan_iff (a b v : Nat) : inSpan a b v = true ↔ spanHolds a b v := by
  unfold inSpan spanHolds; split <;> simp

/-- `InRect` (44_compositor.md R802). -/
theorem inRect_iff (h v : Half) (x y : Nat) : inRect h v x y = true ↔ rectHolds h v x y := by
  have lo : ∀ r : Half, field r 0 8 = r.toNat % 256 := by intro r; simp [field_eq]
  simp only [inRect, rectHolds, Bool.and_eq_true, inSpan_iff, field_top h 8 8 rfl, field_top v 8 8 rfl, lo]
  norm_num

/-! ## Colours -/

/-- A colour of channels below 32 as a number. -/
theorem rgb_toNat (r g b : Nat) (hr : r < 32) (hg : g < 32) (hb : b < 32) : (rgb r g b).toNat = r + g * 32 + b * 1024 := by
  have h1 : r ||| g <<< 5 = r + g * 32 := by
    rw [Nat.or_comm, Nat.shiftLeft_eq, Nat.mul_comm, ← Nat.two_pow_add_eq_or_of_lt (i := 5) hr g]; omega
  have h2 : (r + g * 32) ||| b <<< 10 = r + g * 32 + b * 1024 := by
    rw [Nat.or_comm, Nat.shiftLeft_eq, Nat.mul_comm,
      ← Nat.two_pow_add_eq_or_of_lt (i := 10) (b := r + g * 32) (by omega) b]; omega
  simp only [rgb, h1, h2, BitVec.toNat_ofNat]; omega

/-- The channels of a colour built from channels. -/
theorem rgb_channels (r g b : Nat) (hr : r < 32) (hg : g < 32) (hb : b < 32) :
    chanR (rgb r g b) = r ∧ chanG (rgb r g b) = g ∧ chanB (rgb r g b) = b ∧ opaqueColour (rgb r g b) := by
  have h := rgb_toNat r g b hr hg hb
  simp only [chanR, chanG, chanB, field_eq, h, opaqueColour, getLsbD_eq_div]
  refine ⟨by omega, by omega, by omega, ?_⟩
  rw [decide_eq_false_iff_not]; omega

/-- A channel is below 32. -/
theorem channel_lt (c : Half) : chanR c < 32 ∧ chanG c < 32 ∧ chanB c < 32 := by
  simp only [chanR, chanG, chanB, field_eq]; omega

/-- A colour without bit 15 is the colour of its channels. -/
theorem rgb_of_channels (c : Half) (h : opaqueColour c) : rgb (chanR c) (chanG c) (chanB c) = c := by
  obtain ⟨hr, hg, hb⟩ := channel_lt c
  apply BitVec.eq_of_toNat_eq
  rw [rgb_toNat _ _ _ hr hg hb]
  have hc := c.isLt
  unfold opaqueColour at h
  rw [getLsbD_eq_div, decide_eq_false_iff_not] at h
  simp only [chanR, chanG, chanB, field_eq]; omega

/-- A coefficient is at most 16 (30_encoding.md R325). -/
theorem coefficient_le (r : Half) (lo : Nat) : coefficient r lo ≤ 16 := Nat.min_le_right _ _

/-- Masking with 0x7FFF clears bit 15. -/
theorem opaque_mask (c : Half) : opaqueColour (c &&& 0x7FFF#16) := by
  simp [opaqueColour]

end Sys2Proof.Machine
end

