-- ==== Sys2Proof/Laws/Memory.lean ====
section
/-! SUPPORT. The byte memory: a read after a write, the canonical form kept by every operation, and memories that read
alike are equal. -/

namespace Sys2Proof.Machine

@[simp] theorem Memory.read_nil (a : Nat) : Memory.read [] a = 0#8 := rfl

/-- Below every listed address a memory reads 0. -/
theorem Memory.read_below (m : Memory) (a : Nat) (h : ∀ c ∈ m, a < c.1) : m.read a = 0#8 := by
  induction m with
  | nil => rfl
  | cons c rest ih =>
    obtain ⟨k, b⟩ := c
    have hk : a < k := h (k, b) (by simp)
    have hr := ih fun d hd => h d (by simp [hd])
    simp [Memory.read, Nat.ne_of_gt hk, hr]

/-- A read of the address just written gives the byte written. -/
@[simp] theorem Memory.read_write_same (m : Memory) (a : Nat) (b : Byte) (h : m.wf) : (m.write a b).read a = b := by
  induction m with
  | nil => by_cases hb : b = 0#8 <;> simp [Memory.write, Memory.read, hb]
  | cons c rest ih =>
    obtain ⟨k, d⟩ := c
    have hp := List.pairwise_cons.mp h.1
    have hr : Memory.wf rest := ⟨hp.2, fun e he => h.2 e (by simp [he])⟩
    simp only [Memory.write]
    split
    · rename_i hlt
      by_cases hb : b = 0#8
      · subst hb
        simp only [if_true]
        apply Memory.read_below
        intro e he
        rcases List.mem_cons.mp he with rfl | he
        · exact hlt
        · exact Nat.lt_trans hlt (hp.1 e he)
      · simp [Memory.read, hb]
    · split
      · rename_i heq
        subst heq
        by_cases hb : b = 0#8
        · subst hb
          simp only [if_true]
          exact Memory.read_below rest a fun e he => hp.1 e he
        · simp [Memory.read, hb]
      · rename_i hne
        have : ¬ k = a := fun e => hne e.symm
        simp [Memory.read, this, ih hr]

/-- A write leaves every other address alone. -/
@[simp] theorem Memory.read_write_other (m : Memory) (a x : Nat) (b : Byte) (h : x ≠ a) :
    (m.write a b).read x = m.read x := by
  induction m with
  | nil => by_cases hb : b = 0#8 <;> simp [Memory.write, Memory.read, hb, Ne.symm h]
  | cons c rest ih =>
    obtain ⟨k, d⟩ := c
    simp only [Memory.write]
    split
    · by_cases hb : b = 0#8 <;> simp [Memory.read, hb, Ne.symm h]
    · split
      · rename_i heq
        subst heq
        by_cases hb : b = 0#8 <;> simp [Memory.read, hb, Ne.symm h]
      · simp [Memory.read, ih]

/-- A read after a write. -/
theorem Memory.read_write (m : Memory) (a x : Nat) (b : Byte) (h : m.wf) :
    (m.write a b).read x = if x = a then b else m.read x := by
  by_cases hx : x = a
  · subst hx; rw [Memory.read_write_same _ _ _ h, if_pos rfl]
  · rw [Memory.read_write_other _ _ _ _ hx, if_neg hx]

/-- Every entry of a written memory is the one written or an old one. -/
theorem Memory.mem_write {m : Memory} {a : Nat} {b : Byte} {c : Host.Cell} (h : c ∈ m.write a b) :
    c = (a, b) ∨ c ∈ m := by
  induction m with
  | nil =>
    by_cases hb : b = 0#8 <;> simp [Memory.write, hb] at h
    exact .inl h
  | cons d rest ih =>
    obtain ⟨k, e⟩ := d
    simp only [Memory.write] at h
    split at h
    · by_cases hb : b = 0#8 <;> simp [hb] at h <;> simp [h]
    · split at h
      · by_cases hb : b = 0#8 <;> simp [hb] at h <;> tauto
      · rcases List.mem_cons.mp h with rfl | h
        · simp
        · rcases ih h with h | h <;> simp [h]

/-- A write keeps the canonical form. -/
theorem Memory.write_wf {m : Memory} (a : Nat) (b : Byte) (h : m.wf) : (m.write a b).wf := by
  induction m with
  | nil => by_cases hb : b = 0#8 <;> simp [Memory.wf, Memory.write, hb]
  | cons d rest ih =>
    obtain ⟨k, e⟩ := d
    have hp := List.pairwise_cons.mp h.1
    have hr : Memory.wf rest := ⟨hp.2, fun e he => h.2 e (by simp [he])⟩
    have hk := h.2 (k, e) (by simp)
    simp only [Memory.write]
    split
    · rename_i hlt
      by_cases hb : b = 0#8
      · simpa [hb] using h
      · simp only [hb, if_false]
        refine ⟨List.pairwise_cons.mpr ⟨?_, h.1⟩, ?_⟩
        · intro c hc
          rcases List.mem_cons.mp hc with rfl | hc
          · exact hlt
          · exact Nat.lt_trans hlt (hp.1 c hc)
        · intro c hc
          rcases List.mem_cons.mp hc with rfl | hc
          · exact hb
          · exact h.2 c hc
    · split
      · rename_i heq
        subst heq
        by_cases hb : b = 0#8
        · simpa [hb] using hr
        · simp only [hb, if_false]
          refine ⟨List.pairwise_cons.mpr ⟨hp.1, hp.2⟩, ?_⟩
          intro c hc
          rcases List.mem_cons.mp hc with rfl | hc
          · exact hb
          · exact hr.2 c hc
      · rename_i hlt hne
        have hw := ih hr
        refine ⟨List.pairwise_cons.mpr ⟨?_, hw.1⟩, ?_⟩
        · intro c hc
          rcases Memory.mem_write hc with rfl | hc
          · exact Nat.lt_of_le_of_ne (Nat.le_of_not_lt hlt) (Ne.symm hne)
          · exact hp.1 c hc
        · intro c hc
          rcases List.mem_cons.mp hc with rfl | hc
          · exact hk
          · exact hw.2 c hc

/-- A store of any width keeps the canonical form. -/
theorem Memory.store_wf {m : Memory} (a : Nat) (w : Width) (v : Word) (h : m.wf) : (m.store a w v).wf := by
  cases w
  · exact Memory.write_wf a _ h
  · exact Memory.write_wf (a + 1) _ (Memory.write_wf a _ h)
  · exact Memory.write_wf (a + 3) _ (Memory.write_wf (a + 2) _ (Memory.write_wf (a + 1) _ (Memory.write_wf a _ h)))

/-- A store leaves every byte outside its own alone. -/
theorem Memory.read_store_other (m : Memory) (a x : Nat) (w : Width) (v : Word) (h : x < a ∨ a + widthBytes w ≤ x) :
    (m.store a w v).read x = m.read x := by
  cases w <;> simp only [widthBytes] at h <;> simp only [Memory.store]
  · rw [Memory.read_write_other _ _ _ _ (by omega)]
  · rw [Memory.read_write_other _ _ _ _ (by omega), Memory.read_write_other _ _ _ _ (by omega)]
  · rw [Memory.read_write_other _ _ _ _ (by omega), Memory.read_write_other _ _ _ _ (by omega),
      Memory.read_write_other _ _ _ _ (by omega), Memory.read_write_other _ _ _ _ (by omega)]

/-- Byte `k` of a store is byte `k` of the value. -/
theorem Memory.read_store_same (m : Memory) (a k : Nat) (w : Width) (v : Word) (hm : m.wf) (h : k < widthBytes w) :
    (m.store a w v).read (a + k) = byteOf v k := by
  have w1 := fun (n : Memory) (b : Nat) (c : Byte) (hn : n.wf) => Memory.write_wf b c hn
  cases w <;> simp only [widthBytes] at h <;> simp only [Memory.store]
  · obtain rfl : k = 0 := by omega
    exact Memory.read_write_same _ _ _ hm
  · rcases (by omega : k = 0 ∨ k = 1) with rfl | rfl
    · rw [Memory.read_write_other _ _ _ _ (by omega)]
      exact Memory.read_write_same _ _ _ hm
    · exact Memory.read_write_same _ _ _ (w1 _ _ _ hm)
  · rcases (by omega : k = 0 ∨ k = 1 ∨ k = 2 ∨ k = 3) with rfl | rfl | rfl | rfl
    · rw [Memory.read_write_other _ _ _ _ (by omega), Memory.read_write_other _ _ _ _ (by omega),
        Memory.read_write_other _ _ _ _ (by omega)]
      exact Memory.read_write_same _ _ _ hm
    · rw [Memory.read_write_other _ _ _ _ (by omega), Memory.read_write_other _ _ _ _ (by omega)]
      exact Memory.read_write_same _ _ _ (w1 _ _ _ hm)
    · rw [Memory.read_write_other _ _ _ _ (by omega)]
      exact Memory.read_write_same _ _ _ (w1 _ _ _ (w1 _ _ _ hm))
    · exact Memory.read_write_same _ _ _ (w1 _ _ _ (w1 _ _ _ (w1 _ _ _ hm)))

/-- A listed address of a store is one it stores to, or was listed before. -/
theorem Memory.mem_store {m : Memory} {a : Nat} {w : Width} {v : Word} {c : Host.Cell} (h : c ∈ m.store a w v) :
    (a ≤ c.1 ∧ c.1 < a + widthBytes w) ∨ c ∈ m := by
  cases w <;> simp only [Memory.store] at h <;> simp only [widthBytes]
  · rcases Memory.mem_write h with rfl | h
    · left; simp
    · exact .inr h
  · rcases Memory.mem_write h with rfl | h
    · left; simp
    rcases Memory.mem_write h with rfl | h
    · left; simp
    · exact .inr h
  · rcases Memory.mem_write h with rfl | h
    · left; simp
    rcases Memory.mem_write h with rfl | h
    · left; simp
    rcases Memory.mem_write h with rfl | h
    · left; simp
    rcases Memory.mem_write h with rfl | h
    · left; simp
    · exact .inr h

/-- Canonical memories that read alike are equal. -/
theorem Memory.ext_read {m n : Memory} (hm : m.wf) (hn : n.wf) (h : ∀ a, m.read a = n.read a) : m = n := by
  induction m generalizing n with
  | nil =>
    cases n with
    | nil => rfl
    | cons d rest =>
      have h1 := h d.1
      have h2 := hn.2 d (by simp)
      simp [Memory.read] at h1
      exact absurd h1.symm h2
  | cons c mr ih =>
    have hpm := List.pairwise_cons.mp hm.1
    cases n with
    | nil =>
      have h1 := h c.1
      have h2 := hm.2 c (by simp)
      simp [Memory.read] at h1
      exact absurd h1 h2
    | cons d nr =>
      have hpn := List.pairwise_cons.mp hn.1
      have hcm : ∀ x, x < c.1 → Memory.read (c :: mr) x = 0#8 := fun x hx =>
        Memory.read_below _ x fun e he => by
          rcases List.mem_cons.mp he with rfl | he
          · exact hx
          · exact Nat.lt_trans hx (hpm.1 e he)
      have hcn : ∀ x, x < d.1 → Memory.read (d :: nr) x = 0#8 := fun x hx =>
        Memory.read_below _ x fun e he => by
          rcases List.mem_cons.mp he with rfl | he
          · exact hx
          · exact Nat.lt_trans hx (hpn.1 e he)
      have hkey : c.1 = d.1 := by
        rcases Nat.lt_trichotomy c.1 d.1 with hl | he | hl
        · have := h c.1
          rw [hcn _ hl] at this
          exact absurd (by simpa [Memory.read] using this) (hm.2 c (by simp))
        · exact he
        · have := h d.1
          rw [hcm _ hl] at this
          exact absurd (by simpa [Memory.read] using this.symm) (hn.2 d (by simp))
      have hval : c.2 = d.2 := by
        have := h c.1
        simpa [Memory.read, hkey] using this
      have hrest : mr = nr := by
        apply ih ⟨hpm.2, fun e he => hm.2 e (by simp [he])⟩ ⟨hpn.2, fun e he => hn.2 e (by simp [he])⟩
        intro a
        by_cases ha : a ≤ c.1
        · rw [Memory.read_below mr a fun e he => Nat.lt_of_le_of_lt ha (hpm.1 e he),
            Memory.read_below nr a fun e he => Nat.lt_of_le_of_lt ha (hkey ▸ hpn.1 e he)]
        · have h1 : ¬ c.1 = a := by omega
          have h2 : ¬ d.1 = a := by omega
          have := h a
          simpa [Memory.read, h1, h2] using this
      rw [hrest]
      congr 1
      exact Prod.ext hkey hval

/-- The memory after reset is canonical. -/
theorem Memory.reset_wf : Memory.wf State.reset.mem := by simp [State.reset, Memory.wf]

end Sys2Proof.Machine
end

