-- ==== Sys2Proof/Laws/State.lean ====
section
/-! SUPPORT. Beside State: one lemma for each field of each named update, so that no proof unfolds a record update. -/

namespace Sys2Proof.Machine

/-- The four layer numbers. -/
theorem layer_cases : ∀ n : BitVec 2, n = 0#2 ∨ n = 1#2 ∨ n = 2#2 ∨ n = 3#2 := by decide

/-! ## takeDraws -/

@[simp] theorem takeDraws_mem (n : Nat) (s : State) : (takeDraws n s).mem = s.mem := rfl
@[simp] theorem takeDraws_line (n : Nat) (s : State) : (takeDraws n s).line = s.line := rfl
@[simp] theorem takeDraws_phase (n : Nat) (s : State) : (takeDraws n s).phase = s.phase := rfl
@[simp] theorem takeDraws_tLine (n : Nat) (s : State) : (takeDraws n s).tLine = s.tLine := rfl
@[simp] theorem takeDraws_running (n : Nat) (s : State) : (takeDraws n s).running = s.running := rfl
@[simp] theorem takeDraws_stopRequested (n : Nat) (s : State) : (takeDraws n s).stopRequested = s.stopRequested := rfl
@[simp] theorem takeDraws_framesReady (n : Nat) (s : State) : (takeDraws n s).framesReady = s.framesReady := rfl
@[simp] theorem takeDraws_acc0 (n : Nat) (s : State) : (takeDraws n s).acc0 = s.acc0 := rfl
@[simp] theorem takeDraws_acc1 (n : Nat) (s : State) : (takeDraws n s).acc1 = s.acc1 := rfl
@[simp] theorem takeDraws_lb0 (n : Nat) (s : State) : (takeDraws n s).lb0 = s.lb0 := rfl
@[simp] theorem takeDraws_lb1 (n : Nat) (s : State) : (takeDraws n s).lb1 = s.lb1 := rfl
@[simp] theorem takeDraws_lb2 (n : Nat) (s : State) : (takeDraws n s).lb2 = s.lb2 := rfl
@[simp] theorem takeDraws_lb3 (n : Nat) (s : State) : (takeDraws n s).lb3 = s.lb3 := rfl
@[simp] theorem takeDraws_lb4 (n : Nat) (s : State) : (takeDraws n s).lb4 = s.lb4 := rfl
@[simp] theorem takeDraws_lb5 (n : Nat) (s : State) : (takeDraws n s).lb5 = s.lb5 := rfl
@[simp] theorem takeDraws_fb (n : Nat) (s : State) : (takeDraws n s).fb = s.fb := rfl
@[simp] theorem takeDraws_monitors (n : Nat) (s : State) : (takeDraws n s).monitors = s.monitors := rfl
@[simp] theorem takeDraws_events (n : Nat) (s : State) : (takeDraws n s).events = s.events := rfl
@[simp] theorem takeDraws_faults (n : Nat) (s : State) : (takeDraws n s).faults = s.faults := rfl
@[simp] theorem takeDraws_refused (n : Nat) (s : State) : (takeDraws n s).refused = s.refused := rfl
@[simp] theorem takeDraws_consumed (n : Nat) (s : State) : (takeDraws n s).consumed = s.consumed := rfl
@[simp] theorem takeDraws_presented (n : Nat) (s : State) : (takeDraws n s).presented = s.presented := rfl
@[simp] theorem takeDraws_schedule (n : Nat) (s : State) : (takeDraws n s).schedule = s.schedule := rfl
@[simp] theorem takeDraws_draws (n : Nat) (s : State) : (takeDraws n s).draws = s.draws + n := rfl
@[simp] theorem takeDraws_clockReads (n : Nat) (s : State) : (takeDraws n s).clockReads = s.clockReads := rfl
@[simp] theorem takeDraws_response (n : Nat) (s : State) : (takeDraws n s).response = s.response := rfl
@[simp] theorem takeDraws_box (n : Nat) (s : State) : (takeDraws n s).box = s.box := rfl
@[simp] theorem takeDraws_texel (n : Nat) (s : State) : (takeDraws n s).texel = s.texel := rfl
@[simp] theorem takeDraws_tileNum (n : Nat) (s : State) : (takeDraws n s).tileNum = s.tileNum := rfl
@[simp] theorem takeDraws_objPixel (n : Nat) (s : State) : (takeDraws n s).objPixel = s.objPixel := rfl
@[simp] theorem takeDraws_bmpPixel (n : Nat) (s : State) : (takeDraws n s).bmpPixel = s.bmpPixel := rfl
@[simp] theorem takeDraws_winMask (n : Nat) (s : State) : (takeDraws n s).winMask = s.winMask := rfl
@[simp] theorem takeDraws_winFx (n : Nat) (s : State) : (takeDraws n s).winFx = s.winFx := rfl

/-! ## emit -/

@[simp] theorem emit_mem (e : Event) (s : State) : (emit e s).mem = s.mem := rfl
@[simp] theorem emit_line (e : Event) (s : State) : (emit e s).line = s.line := rfl
@[simp] theorem emit_phase (e : Event) (s : State) : (emit e s).phase = s.phase := rfl
@[simp] theorem emit_tLine (e : Event) (s : State) : (emit e s).tLine = s.tLine := rfl
@[simp] theorem emit_running (e : Event) (s : State) : (emit e s).running = s.running := rfl
@[simp] theorem emit_stopRequested (e : Event) (s : State) : (emit e s).stopRequested = s.stopRequested := rfl
@[simp] theorem emit_framesReady (e : Event) (s : State) : (emit e s).framesReady = s.framesReady := rfl
@[simp] theorem emit_acc0 (e : Event) (s : State) : (emit e s).acc0 = s.acc0 := rfl
@[simp] theorem emit_acc1 (e : Event) (s : State) : (emit e s).acc1 = s.acc1 := rfl
@[simp] theorem emit_lb0 (e : Event) (s : State) : (emit e s).lb0 = s.lb0 := rfl
@[simp] theorem emit_lb1 (e : Event) (s : State) : (emit e s).lb1 = s.lb1 := rfl
@[simp] theorem emit_lb2 (e : Event) (s : State) : (emit e s).lb2 = s.lb2 := rfl
@[simp] theorem emit_lb3 (e : Event) (s : State) : (emit e s).lb3 = s.lb3 := rfl
@[simp] theorem emit_lb4 (e : Event) (s : State) : (emit e s).lb4 = s.lb4 := rfl
@[simp] theorem emit_lb5 (e : Event) (s : State) : (emit e s).lb5 = s.lb5 := rfl
@[simp] theorem emit_fb (e : Event) (s : State) : (emit e s).fb = s.fb := rfl
@[simp] theorem emit_monitors (e : Event) (s : State) : (emit e s).monitors = s.monitors := rfl
@[simp] theorem emit_events (e : Event) (s : State) : (emit e s).events = s.events ++ [e] := rfl
@[simp] theorem emit_faults (e : Event) (s : State) : (emit e s).faults = s.faults := rfl
@[simp] theorem emit_refused (e : Event) (s : State) : (emit e s).refused = s.refused := rfl
@[simp] theorem emit_consumed (e : Event) (s : State) : (emit e s).consumed = s.consumed := rfl
@[simp] theorem emit_presented (e : Event) (s : State) : (emit e s).presented = s.presented := rfl
@[simp] theorem emit_schedule (e : Event) (s : State) : (emit e s).schedule = s.schedule := rfl
@[simp] theorem emit_draws (e : Event) (s : State) : (emit e s).draws = s.draws := rfl
@[simp] theorem emit_clockReads (e : Event) (s : State) : (emit e s).clockReads = s.clockReads := rfl
@[simp] theorem emit_response (e : Event) (s : State) : (emit e s).response = s.response := rfl
@[simp] theorem emit_box (e : Event) (s : State) : (emit e s).box = s.box := rfl
@[simp] theorem emit_texel (e : Event) (s : State) : (emit e s).texel = s.texel := rfl
@[simp] theorem emit_tileNum (e : Event) (s : State) : (emit e s).tileNum = s.tileNum := rfl
@[simp] theorem emit_objPixel (e : Event) (s : State) : (emit e s).objPixel = s.objPixel := rfl
@[simp] theorem emit_bmpPixel (e : Event) (s : State) : (emit e s).bmpPixel = s.bmpPixel := rfl
@[simp] theorem emit_winMask (e : Event) (s : State) : (emit e s).winMask = s.winMask := rfl
@[simp] theorem emit_winFx (e : Event) (s : State) : (emit e s).winFx = s.winFx := rfl

/-! ## emitIf -/

@[simp] theorem emitIf_mem (c : Bool) (e : Event) (s : State) : (emitIf c e s).mem = s.mem := by cases c <;> rfl
@[simp] theorem emitIf_line (c : Bool) (e : Event) (s : State) : (emitIf c e s).line = s.line := by cases c <;> rfl
@[simp] theorem emitIf_phase (c : Bool) (e : Event) (s : State) : (emitIf c e s).phase = s.phase := by cases c <;> rfl
@[simp] theorem emitIf_tLine (c : Bool) (e : Event) (s : State) : (emitIf c e s).tLine = s.tLine := by cases c <;> rfl
@[simp] theorem emitIf_running (c : Bool) (e : Event) (s : State) : (emitIf c e s).running = s.running := by cases c <;> rfl
@[simp] theorem emitIf_stopRequested (c : Bool) (e : Event) (s : State) : (emitIf c e s).stopRequested = s.stopRequested := by cases c <;> rfl
@[simp] theorem emitIf_framesReady (c : Bool) (e : Event) (s : State) : (emitIf c e s).framesReady = s.framesReady := by cases c <;> rfl
@[simp] theorem emitIf_acc0 (c : Bool) (e : Event) (s : State) : (emitIf c e s).acc0 = s.acc0 := by cases c <;> rfl
@[simp] theorem emitIf_acc1 (c : Bool) (e : Event) (s : State) : (emitIf c e s).acc1 = s.acc1 := by cases c <;> rfl
@[simp] theorem emitIf_lb0 (c : Bool) (e : Event) (s : State) : (emitIf c e s).lb0 = s.lb0 := by cases c <;> rfl
@[simp] theorem emitIf_lb1 (c : Bool) (e : Event) (s : State) : (emitIf c e s).lb1 = s.lb1 := by cases c <;> rfl
@[simp] theorem emitIf_lb2 (c : Bool) (e : Event) (s : State) : (emitIf c e s).lb2 = s.lb2 := by cases c <;> rfl
@[simp] theorem emitIf_lb3 (c : Bool) (e : Event) (s : State) : (emitIf c e s).lb3 = s.lb3 := by cases c <;> rfl
@[simp] theorem emitIf_lb4 (c : Bool) (e : Event) (s : State) : (emitIf c e s).lb4 = s.lb4 := by cases c <;> rfl
@[simp] theorem emitIf_lb5 (c : Bool) (e : Event) (s : State) : (emitIf c e s).lb5 = s.lb5 := by cases c <;> rfl
@[simp] theorem emitIf_fb (c : Bool) (e : Event) (s : State) : (emitIf c e s).fb = s.fb := by cases c <;> rfl
@[simp] theorem emitIf_monitors (c : Bool) (e : Event) (s : State) : (emitIf c e s).monitors = s.monitors := by cases c <;> rfl
@[simp] theorem emitIf_events (c : Bool) (e : Event) (s : State) : (emitIf c e s).events = if c then s.events ++ [e] else s.events := by cases c <;> rfl
@[simp] theorem emitIf_faults (c : Bool) (e : Event) (s : State) : (emitIf c e s).faults = s.faults := by cases c <;> rfl
@[simp] theorem emitIf_refused (c : Bool) (e : Event) (s : State) : (emitIf c e s).refused = s.refused := by cases c <;> rfl
@[simp] theorem emitIf_consumed (c : Bool) (e : Event) (s : State) : (emitIf c e s).consumed = s.consumed := by cases c <;> rfl
@[simp] theorem emitIf_presented (c : Bool) (e : Event) (s : State) : (emitIf c e s).presented = s.presented := by cases c <;> rfl
@[simp] theorem emitIf_schedule (c : Bool) (e : Event) (s : State) : (emitIf c e s).schedule = s.schedule := by cases c <;> rfl
@[simp] theorem emitIf_draws (c : Bool) (e : Event) (s : State) : (emitIf c e s).draws = s.draws := by cases c <;> rfl
@[simp] theorem emitIf_clockReads (c : Bool) (e : Event) (s : State) : (emitIf c e s).clockReads = s.clockReads := by cases c <;> rfl
@[simp] theorem emitIf_response (c : Bool) (e : Event) (s : State) : (emitIf c e s).response = s.response := by cases c <;> rfl
@[simp] theorem emitIf_box (c : Bool) (e : Event) (s : State) : (emitIf c e s).box = s.box := by cases c <;> rfl
@[simp] theorem emitIf_texel (c : Bool) (e : Event) (s : State) : (emitIf c e s).texel = s.texel := by cases c <;> rfl
@[simp] theorem emitIf_tileNum (c : Bool) (e : Event) (s : State) : (emitIf c e s).tileNum = s.tileNum := by cases c <;> rfl
@[simp] theorem emitIf_objPixel (c : Bool) (e : Event) (s : State) : (emitIf c e s).objPixel = s.objPixel := by cases c <;> rfl
@[simp] theorem emitIf_bmpPixel (c : Bool) (e : Event) (s : State) : (emitIf c e s).bmpPixel = s.bmpPixel := by cases c <;> rfl
@[simp] theorem emitIf_winMask (c : Bool) (e : Event) (s : State) : (emitIf c e s).winMask = s.winMask := by cases c <;> rfl
@[simp] theorem emitIf_winFx (c : Bool) (e : Event) (s : State) : (emitIf c e s).winFx = s.winFx := by cases c <;> rfl

/-! ## respond -/

@[simp] theorem respond_mem (r : Response) (s : State) : (respond r s).mem = s.mem := rfl
@[simp] theorem respond_line (r : Response) (s : State) : (respond r s).line = s.line := rfl
@[simp] theorem respond_phase (r : Response) (s : State) : (respond r s).phase = s.phase := rfl
@[simp] theorem respond_tLine (r : Response) (s : State) : (respond r s).tLine = s.tLine := rfl
@[simp] theorem respond_running (r : Response) (s : State) : (respond r s).running = s.running := rfl
@[simp] theorem respond_stopRequested (r : Response) (s : State) : (respond r s).stopRequested = s.stopRequested := rfl
@[simp] theorem respond_framesReady (r : Response) (s : State) : (respond r s).framesReady = s.framesReady := rfl
@[simp] theorem respond_acc0 (r : Response) (s : State) : (respond r s).acc0 = s.acc0 := rfl
@[simp] theorem respond_acc1 (r : Response) (s : State) : (respond r s).acc1 = s.acc1 := rfl
@[simp] theorem respond_lb0 (r : Response) (s : State) : (respond r s).lb0 = s.lb0 := rfl
@[simp] theorem respond_lb1 (r : Response) (s : State) : (respond r s).lb1 = s.lb1 := rfl
@[simp] theorem respond_lb2 (r : Response) (s : State) : (respond r s).lb2 = s.lb2 := rfl
@[simp] theorem respond_lb3 (r : Response) (s : State) : (respond r s).lb3 = s.lb3 := rfl
@[simp] theorem respond_lb4 (r : Response) (s : State) : (respond r s).lb4 = s.lb4 := rfl
@[simp] theorem respond_lb5 (r : Response) (s : State) : (respond r s).lb5 = s.lb5 := rfl
@[simp] theorem respond_fb (r : Response) (s : State) : (respond r s).fb = s.fb := rfl
@[simp] theorem respond_monitors (r : Response) (s : State) : (respond r s).monitors = s.monitors := rfl
@[simp] theorem respond_events (r : Response) (s : State) : (respond r s).events = s.events := rfl
@[simp] theorem respond_faults (r : Response) (s : State) : (respond r s).faults = s.faults := rfl
@[simp] theorem respond_refused (r : Response) (s : State) : (respond r s).refused = s.refused := rfl
@[simp] theorem respond_consumed (r : Response) (s : State) : (respond r s).consumed = s.consumed := rfl
@[simp] theorem respond_presented (r : Response) (s : State) : (respond r s).presented = s.presented := rfl
@[simp] theorem respond_schedule (r : Response) (s : State) : (respond r s).schedule = s.schedule := rfl
@[simp] theorem respond_draws (r : Response) (s : State) : (respond r s).draws = s.draws := rfl
@[simp] theorem respond_clockReads (r : Response) (s : State) : (respond r s).clockReads = s.clockReads := rfl
@[simp] theorem respond_response (r : Response) (s : State) : (respond r s).response = r := rfl
@[simp] theorem respond_box (r : Response) (s : State) : (respond r s).box = s.box := rfl
@[simp] theorem respond_texel (r : Response) (s : State) : (respond r s).texel = s.texel := rfl
@[simp] theorem respond_tileNum (r : Response) (s : State) : (respond r s).tileNum = s.tileNum := rfl
@[simp] theorem respond_objPixel (r : Response) (s : State) : (respond r s).objPixel = s.objPixel := rfl
@[simp] theorem respond_bmpPixel (r : Response) (s : State) : (respond r s).bmpPixel = s.bmpPixel := rfl
@[simp] theorem respond_winMask (r : Response) (s : State) : (respond r s).winMask = s.winMask := rfl
@[simp] theorem respond_winFx (r : Response) (s : State) : (respond r s).winFx = s.winFx := rfl

/-! ## refuse -/

@[simp] theorem refuse_mem (s : State) : (refuse s).mem = s.mem := rfl
@[simp] theorem refuse_line (s : State) : (refuse s).line = s.line := rfl
@[simp] theorem refuse_phase (s : State) : (refuse s).phase = s.phase := rfl
@[simp] theorem refuse_tLine (s : State) : (refuse s).tLine = s.tLine := rfl
@[simp] theorem refuse_running (s : State) : (refuse s).running = s.running := rfl
@[simp] theorem refuse_stopRequested (s : State) : (refuse s).stopRequested = s.stopRequested := rfl
@[simp] theorem refuse_framesReady (s : State) : (refuse s).framesReady = s.framesReady := rfl
@[simp] theorem refuse_acc0 (s : State) : (refuse s).acc0 = s.acc0 := rfl
@[simp] theorem refuse_acc1 (s : State) : (refuse s).acc1 = s.acc1 := rfl
@[simp] theorem refuse_lb0 (s : State) : (refuse s).lb0 = s.lb0 := rfl
@[simp] theorem refuse_lb1 (s : State) : (refuse s).lb1 = s.lb1 := rfl
@[simp] theorem refuse_lb2 (s : State) : (refuse s).lb2 = s.lb2 := rfl
@[simp] theorem refuse_lb3 (s : State) : (refuse s).lb3 = s.lb3 := rfl
@[simp] theorem refuse_lb4 (s : State) : (refuse s).lb4 = s.lb4 := rfl
@[simp] theorem refuse_lb5 (s : State) : (refuse s).lb5 = s.lb5 := rfl
@[simp] theorem refuse_fb (s : State) : (refuse s).fb = s.fb := rfl
@[simp] theorem refuse_monitors (s : State) : (refuse s).monitors = s.monitors := rfl
@[simp] theorem refuse_events (s : State) : (refuse s).events = s.events := rfl
@[simp] theorem refuse_faults (s : State) : (refuse s).faults = s.faults := rfl
@[simp] theorem refuse_refused (s : State) : (refuse s).refused = true := rfl
@[simp] theorem refuse_consumed (s : State) : (refuse s).consumed = s.consumed := rfl
@[simp] theorem refuse_presented (s : State) : (refuse s).presented = s.presented := rfl
@[simp] theorem refuse_schedule (s : State) : (refuse s).schedule = s.schedule := rfl
@[simp] theorem refuse_draws (s : State) : (refuse s).draws = s.draws := rfl
@[simp] theorem refuse_clockReads (s : State) : (refuse s).clockReads = s.clockReads := rfl
@[simp] theorem refuse_response (s : State) : (refuse s).response = .noValue := rfl
@[simp] theorem refuse_box (s : State) : (refuse s).box = s.box := rfl
@[simp] theorem refuse_texel (s : State) : (refuse s).texel = s.texel := rfl
@[simp] theorem refuse_tileNum (s : State) : (refuse s).tileNum = s.tileNum := rfl
@[simp] theorem refuse_objPixel (s : State) : (refuse s).objPixel = s.objPixel := rfl
@[simp] theorem refuse_bmpPixel (s : State) : (refuse s).bmpPixel = s.bmpPixel := rfl
@[simp] theorem refuse_winMask (s : State) : (refuse s).winMask = s.winMask := rfl
@[simp] theorem refuse_winFx (s : State) : (refuse s).winFx = s.winFx := rfl

/-! ## raiseStoreFault -/

@[simp] theorem raiseStoreFault_mem (f : StoreFault) (s : State) : (raiseStoreFault f s).mem = s.mem := rfl
@[simp] theorem raiseStoreFault_line (f : StoreFault) (s : State) : (raiseStoreFault f s).line = s.line := rfl
@[simp] theorem raiseStoreFault_phase (f : StoreFault) (s : State) : (raiseStoreFault f s).phase = s.phase := rfl
@[simp] theorem raiseStoreFault_tLine (f : StoreFault) (s : State) : (raiseStoreFault f s).tLine = s.tLine := rfl
@[simp] theorem raiseStoreFault_running (f : StoreFault) (s : State) : (raiseStoreFault f s).running = s.running := rfl
@[simp] theorem raiseStoreFault_stopRequested (f : StoreFault) (s : State) : (raiseStoreFault f s).stopRequested = s.stopRequested := rfl
@[simp] theorem raiseStoreFault_framesReady (f : StoreFault) (s : State) : (raiseStoreFault f s).framesReady = s.framesReady := rfl
@[simp] theorem raiseStoreFault_acc0 (f : StoreFault) (s : State) : (raiseStoreFault f s).acc0 = s.acc0 := rfl
@[simp] theorem raiseStoreFault_acc1 (f : StoreFault) (s : State) : (raiseStoreFault f s).acc1 = s.acc1 := rfl
@[simp] theorem raiseStoreFault_lb0 (f : StoreFault) (s : State) : (raiseStoreFault f s).lb0 = s.lb0 := rfl
@[simp] theorem raiseStoreFault_lb1 (f : StoreFault) (s : State) : (raiseStoreFault f s).lb1 = s.lb1 := rfl
@[simp] theorem raiseStoreFault_lb2 (f : StoreFault) (s : State) : (raiseStoreFault f s).lb2 = s.lb2 := rfl
@[simp] theorem raiseStoreFault_lb3 (f : StoreFault) (s : State) : (raiseStoreFault f s).lb3 = s.lb3 := rfl
@[simp] theorem raiseStoreFault_lb4 (f : StoreFault) (s : State) : (raiseStoreFault f s).lb4 = s.lb4 := rfl
@[simp] theorem raiseStoreFault_lb5 (f : StoreFault) (s : State) : (raiseStoreFault f s).lb5 = s.lb5 := rfl
@[simp] theorem raiseStoreFault_fb (f : StoreFault) (s : State) : (raiseStoreFault f s).fb = s.fb := rfl
@[simp] theorem raiseStoreFault_monitors (f : StoreFault) (s : State) : (raiseStoreFault f s).monitors = s.monitors := rfl
@[simp] theorem raiseStoreFault_events (f : StoreFault) (s : State) : (raiseStoreFault f s).events = s.events := rfl
@[simp] theorem raiseStoreFault_faults (f : StoreFault) (s : State) : (raiseStoreFault f s).faults = s.faults ++ [f] := rfl
@[simp] theorem raiseStoreFault_refused (f : StoreFault) (s : State) : (raiseStoreFault f s).refused = s.refused := rfl
@[simp] theorem raiseStoreFault_consumed (f : StoreFault) (s : State) : (raiseStoreFault f s).consumed = s.consumed := rfl
@[simp] theorem raiseStoreFault_presented (f : StoreFault) (s : State) : (raiseStoreFault f s).presented = s.presented := rfl
@[simp] theorem raiseStoreFault_schedule (f : StoreFault) (s : State) : (raiseStoreFault f s).schedule = s.schedule := rfl
@[simp] theorem raiseStoreFault_draws (f : StoreFault) (s : State) : (raiseStoreFault f s).draws = s.draws := rfl
@[simp] theorem raiseStoreFault_clockReads (f : StoreFault) (s : State) : (raiseStoreFault f s).clockReads = s.clockReads := rfl
@[simp] theorem raiseStoreFault_response (f : StoreFault) (s : State) : (raiseStoreFault f s).response = .noValue := rfl
@[simp] theorem raiseStoreFault_box (f : StoreFault) (s : State) : (raiseStoreFault f s).box = s.box := rfl
@[simp] theorem raiseStoreFault_texel (f : StoreFault) (s : State) : (raiseStoreFault f s).texel = s.texel := rfl
@[simp] theorem raiseStoreFault_tileNum (f : StoreFault) (s : State) : (raiseStoreFault f s).tileNum = s.tileNum := rfl
@[simp] theorem raiseStoreFault_objPixel (f : StoreFault) (s : State) : (raiseStoreFault f s).objPixel = s.objPixel := rfl
@[simp] theorem raiseStoreFault_bmpPixel (f : StoreFault) (s : State) : (raiseStoreFault f s).bmpPixel = s.bmpPixel := rfl
@[simp] theorem raiseStoreFault_winMask (f : StoreFault) (s : State) : (raiseStoreFault f s).winMask = s.winMask := rfl
@[simp] theorem raiseStoreFault_winFx (f : StoreFault) (s : State) : (raiseStoreFault f s).winFx = s.winFx := rfl

/-! ## setAcc -/

@[simp] theorem setAcc_mem (k : BitVec 1) (a : Acc) (s : State) : (setAcc k a s).mem = s.mem := by unfold setAcc; split <;> rfl
@[simp] theorem setAcc_line (k : BitVec 1) (a : Acc) (s : State) : (setAcc k a s).line = s.line := by unfold setAcc; split <;> rfl
@[simp] theorem setAcc_phase (k : BitVec 1) (a : Acc) (s : State) : (setAcc k a s).phase = s.phase := by unfold setAcc; split <;> rfl
@[simp] theorem setAcc_tLine (k : BitVec 1) (a : Acc) (s : State) : (setAcc k a s).tLine = s.tLine := by unfold setAcc; split <;> rfl
@[simp] theorem setAcc_running (k : BitVec 1) (a : Acc) (s : State) : (setAcc k a s).running = s.running := by unfold setAcc; split <;> rfl
@[simp] theorem setAcc_stopRequested (k : BitVec 1) (a : Acc) (s : State) : (setAcc k a s).stopRequested = s.stopRequested := by unfold setAcc; split <;> rfl
@[simp] theorem setAcc_framesReady (k : BitVec 1) (a : Acc) (s : State) : (setAcc k a s).framesReady = s.framesReady := by unfold setAcc; split <;> rfl
@[simp] theorem setAcc_acc0 (k : BitVec 1) (a : Acc) (s : State) : (setAcc k a s).acc0 = if k = 0#1 then a else s.acc0 := by unfold setAcc; split <;> rfl
@[simp] theorem setAcc_acc1 (k : BitVec 1) (a : Acc) (s : State) : (setAcc k a s).acc1 = if k = 0#1 then s.acc1 else a := by unfold setAcc; split <;> rfl
@[simp] theorem setAcc_lb0 (k : BitVec 1) (a : Acc) (s : State) : (setAcc k a s).lb0 = s.lb0 := by unfold setAcc; split <;> rfl
@[simp] theorem setAcc_lb1 (k : BitVec 1) (a : Acc) (s : State) : (setAcc k a s).lb1 = s.lb1 := by unfold setAcc; split <;> rfl
@[simp] theorem setAcc_lb2 (k : BitVec 1) (a : Acc) (s : State) : (setAcc k a s).lb2 = s.lb2 := by unfold setAcc; split <;> rfl
@[simp] theorem setAcc_lb3 (k : BitVec 1) (a : Acc) (s : State) : (setAcc k a s).lb3 = s.lb3 := by unfold setAcc; split <;> rfl
@[simp] theorem setAcc_lb4 (k : BitVec 1) (a : Acc) (s : State) : (setAcc k a s).lb4 = s.lb4 := by unfold setAcc; split <;> rfl
@[simp] theorem setAcc_lb5 (k : BitVec 1) (a : Acc) (s : State) : (setAcc k a s).lb5 = s.lb5 := by unfold setAcc; split <;> rfl
@[simp] theorem setAcc_fb (k : BitVec 1) (a : Acc) (s : State) : (setAcc k a s).fb = s.fb := by unfold setAcc; split <;> rfl
@[simp] theorem setAcc_monitors (k : BitVec 1) (a : Acc) (s : State) : (setAcc k a s).monitors = s.monitors := by unfold setAcc; split <;> rfl
@[simp] theorem setAcc_events (k : BitVec 1) (a : Acc) (s : State) : (setAcc k a s).events = s.events := by unfold setAcc; split <;> rfl
@[simp] theorem setAcc_faults (k : BitVec 1) (a : Acc) (s : State) : (setAcc k a s).faults = s.faults := by unfold setAcc; split <;> rfl
@[simp] theorem setAcc_refused (k : BitVec 1) (a : Acc) (s : State) : (setAcc k a s).refused = s.refused := by unfold setAcc; split <;> rfl
@[simp] theorem setAcc_consumed (k : BitVec 1) (a : Acc) (s : State) : (setAcc k a s).consumed = s.consumed := by unfold setAcc; split <;> rfl
@[simp] theorem setAcc_presented (k : BitVec 1) (a : Acc) (s : State) : (setAcc k a s).presented = s.presented := by unfold setAcc; split <;> rfl
@[simp] theorem setAcc_schedule (k : BitVec 1) (a : Acc) (s : State) : (setAcc k a s).schedule = s.schedule := by unfold setAcc; split <;> rfl
@[simp] theorem setAcc_draws (k : BitVec 1) (a : Acc) (s : State) : (setAcc k a s).draws = s.draws := by unfold setAcc; split <;> rfl
@[simp] theorem setAcc_clockReads (k : BitVec 1) (a : Acc) (s : State) : (setAcc k a s).clockReads = s.clockReads := by unfold setAcc; split <;> rfl
@[simp] theorem setAcc_response (k : BitVec 1) (a : Acc) (s : State) : (setAcc k a s).response = s.response := by unfold setAcc; split <;> rfl
@[simp] theorem setAcc_box (k : BitVec 1) (a : Acc) (s : State) : (setAcc k a s).box = s.box := by unfold setAcc; split <;> rfl
@[simp] theorem setAcc_texel (k : BitVec 1) (a : Acc) (s : State) : (setAcc k a s).texel = s.texel := by unfold setAcc; split <;> rfl
@[simp] theorem setAcc_tileNum (k : BitVec 1) (a : Acc) (s : State) : (setAcc k a s).tileNum = s.tileNum := by unfold setAcc; split <;> rfl
@[simp] theorem setAcc_objPixel (k : BitVec 1) (a : Acc) (s : State) : (setAcc k a s).objPixel = s.objPixel := by unfold setAcc; split <;> rfl
@[simp] theorem setAcc_bmpPixel (k : BitVec 1) (a : Acc) (s : State) : (setAcc k a s).bmpPixel = s.bmpPixel := by unfold setAcc; split <;> rfl
@[simp] theorem setAcc_winMask (k : BitVec 1) (a : Acc) (s : State) : (setAcc k a s).winMask = s.winMask := by unfold setAcc; split <;> rfl
@[simp] theorem setAcc_winFx (k : BitVec 1) (a : Acc) (s : State) : (setAcc k a s).winFx = s.winFx := by unfold setAcc; split <;> rfl

/-! ## addMonitor -/

@[simp] theorem addMonitor_mem (e : Monitor) (s : State) : (addMonitor e s).mem = s.mem := rfl
@[simp] theorem addMonitor_line (e : Monitor) (s : State) : (addMonitor e s).line = s.line := rfl
@[simp] theorem addMonitor_phase (e : Monitor) (s : State) : (addMonitor e s).phase = s.phase := rfl
@[simp] theorem addMonitor_tLine (e : Monitor) (s : State) : (addMonitor e s).tLine = s.tLine := rfl
@[simp] theorem addMonitor_running (e : Monitor) (s : State) : (addMonitor e s).running = s.running := rfl
@[simp] theorem addMonitor_stopRequested (e : Monitor) (s : State) : (addMonitor e s).stopRequested = s.stopRequested := rfl
@[simp] theorem addMonitor_framesReady (e : Monitor) (s : State) : (addMonitor e s).framesReady = s.framesReady := rfl
@[simp] theorem addMonitor_acc0 (e : Monitor) (s : State) : (addMonitor e s).acc0 = s.acc0 := rfl
@[simp] theorem addMonitor_acc1 (e : Monitor) (s : State) : (addMonitor e s).acc1 = s.acc1 := rfl
@[simp] theorem addMonitor_lb0 (e : Monitor) (s : State) : (addMonitor e s).lb0 = s.lb0 := rfl
@[simp] theorem addMonitor_lb1 (e : Monitor) (s : State) : (addMonitor e s).lb1 = s.lb1 := rfl
@[simp] theorem addMonitor_lb2 (e : Monitor) (s : State) : (addMonitor e s).lb2 = s.lb2 := rfl
@[simp] theorem addMonitor_lb3 (e : Monitor) (s : State) : (addMonitor e s).lb3 = s.lb3 := rfl
@[simp] theorem addMonitor_lb4 (e : Monitor) (s : State) : (addMonitor e s).lb4 = s.lb4 := rfl
@[simp] theorem addMonitor_lb5 (e : Monitor) (s : State) : (addMonitor e s).lb5 = s.lb5 := rfl
@[simp] theorem addMonitor_fb (e : Monitor) (s : State) : (addMonitor e s).fb = s.fb := rfl
@[simp] theorem addMonitor_monitors (e : Monitor) (s : State) : (addMonitor e s).monitors = s.monitors ++ [e] := rfl
@[simp] theorem addMonitor_events (e : Monitor) (s : State) : (addMonitor e s).events = s.events := rfl
@[simp] theorem addMonitor_faults (e : Monitor) (s : State) : (addMonitor e s).faults = s.faults := rfl
@[simp] theorem addMonitor_refused (e : Monitor) (s : State) : (addMonitor e s).refused = s.refused := rfl
@[simp] theorem addMonitor_consumed (e : Monitor) (s : State) : (addMonitor e s).consumed = s.consumed := rfl
@[simp] theorem addMonitor_presented (e : Monitor) (s : State) : (addMonitor e s).presented = s.presented := rfl
@[simp] theorem addMonitor_schedule (e : Monitor) (s : State) : (addMonitor e s).schedule = s.schedule := rfl
@[simp] theorem addMonitor_draws (e : Monitor) (s : State) : (addMonitor e s).draws = s.draws := rfl
@[simp] theorem addMonitor_clockReads (e : Monitor) (s : State) : (addMonitor e s).clockReads = s.clockReads := rfl
@[simp] theorem addMonitor_response (e : Monitor) (s : State) : (addMonitor e s).response = s.response := rfl
@[simp] theorem addMonitor_box (e : Monitor) (s : State) : (addMonitor e s).box = s.box := rfl
@[simp] theorem addMonitor_texel (e : Monitor) (s : State) : (addMonitor e s).texel = s.texel := rfl
@[simp] theorem addMonitor_tileNum (e : Monitor) (s : State) : (addMonitor e s).tileNum = s.tileNum := rfl
@[simp] theorem addMonitor_objPixel (e : Monitor) (s : State) : (addMonitor e s).objPixel = s.objPixel := rfl
@[simp] theorem addMonitor_bmpPixel (e : Monitor) (s : State) : (addMonitor e s).bmpPixel = s.bmpPixel := rfl
@[simp] theorem addMonitor_winMask (e : Monitor) (s : State) : (addMonitor e s).winMask = s.winMask := rfl
@[simp] theorem addMonitor_winFx (e : Monitor) (s : State) : (addMonitor e s).winFx = s.winFx := rfl

/-! ## setFbRow -/

@[simp] theorem setFbRow_mem (y : Nat) (row : List Half) (s : State) : (setFbRow y row s).mem = s.mem := rfl
@[simp] theorem setFbRow_line (y : Nat) (row : List Half) (s : State) : (setFbRow y row s).line = s.line := rfl
@[simp] theorem setFbRow_phase (y : Nat) (row : List Half) (s : State) : (setFbRow y row s).phase = s.phase := rfl
@[simp] theorem setFbRow_tLine (y : Nat) (row : List Half) (s : State) : (setFbRow y row s).tLine = s.tLine := rfl
@[simp] theorem setFbRow_running (y : Nat) (row : List Half) (s : State) : (setFbRow y row s).running = s.running := rfl
@[simp] theorem setFbRow_stopRequested (y : Nat) (row : List Half) (s : State) : (setFbRow y row s).stopRequested = s.stopRequested := rfl
@[simp] theorem setFbRow_framesReady (y : Nat) (row : List Half) (s : State) : (setFbRow y row s).framesReady = s.framesReady := rfl
@[simp] theorem setFbRow_acc0 (y : Nat) (row : List Half) (s : State) : (setFbRow y row s).acc0 = s.acc0 := rfl
@[simp] theorem setFbRow_acc1 (y : Nat) (row : List Half) (s : State) : (setFbRow y row s).acc1 = s.acc1 := rfl
@[simp] theorem setFbRow_lb0 (y : Nat) (row : List Half) (s : State) : (setFbRow y row s).lb0 = s.lb0 := rfl
@[simp] theorem setFbRow_lb1 (y : Nat) (row : List Half) (s : State) : (setFbRow y row s).lb1 = s.lb1 := rfl
@[simp] theorem setFbRow_lb2 (y : Nat) (row : List Half) (s : State) : (setFbRow y row s).lb2 = s.lb2 := rfl
@[simp] theorem setFbRow_lb3 (y : Nat) (row : List Half) (s : State) : (setFbRow y row s).lb3 = s.lb3 := rfl
@[simp] theorem setFbRow_lb4 (y : Nat) (row : List Half) (s : State) : (setFbRow y row s).lb4 = s.lb4 := rfl
@[simp] theorem setFbRow_lb5 (y : Nat) (row : List Half) (s : State) : (setFbRow y row s).lb5 = s.lb5 := rfl
@[simp] theorem setFbRow_fb (y : Nat) (row : List Half) (s : State) : (setFbRow y row s).fb = s.fb.set y row := rfl
@[simp] theorem setFbRow_monitors (y : Nat) (row : List Half) (s : State) : (setFbRow y row s).monitors = s.monitors := rfl
@[simp] theorem setFbRow_events (y : Nat) (row : List Half) (s : State) : (setFbRow y row s).events = s.events := rfl
@[simp] theorem setFbRow_faults (y : Nat) (row : List Half) (s : State) : (setFbRow y row s).faults = s.faults := rfl
@[simp] theorem setFbRow_refused (y : Nat) (row : List Half) (s : State) : (setFbRow y row s).refused = s.refused := rfl
@[simp] theorem setFbRow_consumed (y : Nat) (row : List Half) (s : State) : (setFbRow y row s).consumed = s.consumed := rfl
@[simp] theorem setFbRow_presented (y : Nat) (row : List Half) (s : State) : (setFbRow y row s).presented = s.presented := rfl
@[simp] theorem setFbRow_schedule (y : Nat) (row : List Half) (s : State) : (setFbRow y row s).schedule = s.schedule := rfl
@[simp] theorem setFbRow_draws (y : Nat) (row : List Half) (s : State) : (setFbRow y row s).draws = s.draws := rfl
@[simp] theorem setFbRow_clockReads (y : Nat) (row : List Half) (s : State) : (setFbRow y row s).clockReads = s.clockReads := rfl
@[simp] theorem setFbRow_response (y : Nat) (row : List Half) (s : State) : (setFbRow y row s).response = s.response := rfl
@[simp] theorem setFbRow_box (y : Nat) (row : List Half) (s : State) : (setFbRow y row s).box = s.box := rfl
@[simp] theorem setFbRow_texel (y : Nat) (row : List Half) (s : State) : (setFbRow y row s).texel = s.texel := rfl
@[simp] theorem setFbRow_tileNum (y : Nat) (row : List Half) (s : State) : (setFbRow y row s).tileNum = s.tileNum := rfl
@[simp] theorem setFbRow_objPixel (y : Nat) (row : List Half) (s : State) : (setFbRow y row s).objPixel = s.objPixel := rfl
@[simp] theorem setFbRow_bmpPixel (y : Nat) (row : List Half) (s : State) : (setFbRow y row s).bmpPixel = s.bmpPixel := rfl
@[simp] theorem setFbRow_winMask (y : Nat) (row : List Half) (s : State) : (setFbRow y row s).winMask = s.winMask := rfl
@[simp] theorem setFbRow_winFx (y : Nat) (row : List Half) (s : State) : (setFbRow y row s).winFx = s.winFx := rfl

/-! ## setFbPixel -/

@[simp] theorem setFbPixel_mem (y x : Nat) (c : Half) (s : State) : (setFbPixel y x c s).mem = s.mem := rfl
@[simp] theorem setFbPixel_line (y x : Nat) (c : Half) (s : State) : (setFbPixel y x c s).line = s.line := rfl
@[simp] theorem setFbPixel_phase (y x : Nat) (c : Half) (s : State) : (setFbPixel y x c s).phase = s.phase := rfl
@[simp] theorem setFbPixel_tLine (y x : Nat) (c : Half) (s : State) : (setFbPixel y x c s).tLine = s.tLine := rfl
@[simp] theorem setFbPixel_running (y x : Nat) (c : Half) (s : State) : (setFbPixel y x c s).running = s.running := rfl
@[simp] theorem setFbPixel_stopRequested (y x : Nat) (c : Half) (s : State) : (setFbPixel y x c s).stopRequested = s.stopRequested := rfl
@[simp] theorem setFbPixel_framesReady (y x : Nat) (c : Half) (s : State) : (setFbPixel y x c s).framesReady = s.framesReady := rfl
@[simp] theorem setFbPixel_acc0 (y x : Nat) (c : Half) (s : State) : (setFbPixel y x c s).acc0 = s.acc0 := rfl
@[simp] theorem setFbPixel_acc1 (y x : Nat) (c : Half) (s : State) : (setFbPixel y x c s).acc1 = s.acc1 := rfl
@[simp] theorem setFbPixel_lb0 (y x : Nat) (c : Half) (s : State) : (setFbPixel y x c s).lb0 = s.lb0 := rfl
@[simp] theorem setFbPixel_lb1 (y x : Nat) (c : Half) (s : State) : (setFbPixel y x c s).lb1 = s.lb1 := rfl
@[simp] theorem setFbPixel_lb2 (y x : Nat) (c : Half) (s : State) : (setFbPixel y x c s).lb2 = s.lb2 := rfl
@[simp] theorem setFbPixel_lb3 (y x : Nat) (c : Half) (s : State) : (setFbPixel y x c s).lb3 = s.lb3 := rfl
@[simp] theorem setFbPixel_lb4 (y x : Nat) (c : Half) (s : State) : (setFbPixel y x c s).lb4 = s.lb4 := rfl
@[simp] theorem setFbPixel_lb5 (y x : Nat) (c : Half) (s : State) : (setFbPixel y x c s).lb5 = s.lb5 := rfl
@[simp] theorem setFbPixel_fb (y x : Nat) (c : Half) (s : State) : (setFbPixel y x c s).fb = s.fb.set y ((s.fb.getD y []).set x c) := rfl
@[simp] theorem setFbPixel_monitors (y x : Nat) (c : Half) (s : State) : (setFbPixel y x c s).monitors = s.monitors := rfl
@[simp] theorem setFbPixel_events (y x : Nat) (c : Half) (s : State) : (setFbPixel y x c s).events = s.events := rfl
@[simp] theorem setFbPixel_faults (y x : Nat) (c : Half) (s : State) : (setFbPixel y x c s).faults = s.faults := rfl
@[simp] theorem setFbPixel_refused (y x : Nat) (c : Half) (s : State) : (setFbPixel y x c s).refused = s.refused := rfl
@[simp] theorem setFbPixel_consumed (y x : Nat) (c : Half) (s : State) : (setFbPixel y x c s).consumed = s.consumed := rfl
@[simp] theorem setFbPixel_presented (y x : Nat) (c : Half) (s : State) : (setFbPixel y x c s).presented = s.presented := rfl
@[simp] theorem setFbPixel_schedule (y x : Nat) (c : Half) (s : State) : (setFbPixel y x c s).schedule = s.schedule := rfl
@[simp] theorem setFbPixel_draws (y x : Nat) (c : Half) (s : State) : (setFbPixel y x c s).draws = s.draws := rfl
@[simp] theorem setFbPixel_clockReads (y x : Nat) (c : Half) (s : State) : (setFbPixel y x c s).clockReads = s.clockReads := rfl
@[simp] theorem setFbPixel_response (y x : Nat) (c : Half) (s : State) : (setFbPixel y x c s).response = s.response := rfl
@[simp] theorem setFbPixel_box (y x : Nat) (c : Half) (s : State) : (setFbPixel y x c s).box = s.box := rfl
@[simp] theorem setFbPixel_texel (y x : Nat) (c : Half) (s : State) : (setFbPixel y x c s).texel = s.texel := rfl
@[simp] theorem setFbPixel_tileNum (y x : Nat) (c : Half) (s : State) : (setFbPixel y x c s).tileNum = s.tileNum := rfl
@[simp] theorem setFbPixel_objPixel (y x : Nat) (c : Half) (s : State) : (setFbPixel y x c s).objPixel = s.objPixel := rfl
@[simp] theorem setFbPixel_bmpPixel (y x : Nat) (c : Half) (s : State) : (setFbPixel y x c s).bmpPixel = s.bmpPixel := rfl
@[simp] theorem setFbPixel_winMask (y x : Nat) (c : Half) (s : State) : (setFbPixel y x c s).winMask = s.winMask := rfl
@[simp] theorem setFbPixel_winFx (y x : Nat) (c : Half) (s : State) : (setFbPixel y x c s).winFx = s.winFx := rfl

/-! ## readClock -/

@[simp] theorem readClock_mem (s : State) : (readClock s).mem = s.mem := rfl
@[simp] theorem readClock_line (s : State) : (readClock s).line = s.line := rfl
@[simp] theorem readClock_phase (s : State) : (readClock s).phase = s.phase := rfl
@[simp] theorem readClock_tLine (s : State) : (readClock s).tLine = Config.clockAt s.clockReads := rfl
@[simp] theorem readClock_running (s : State) : (readClock s).running = s.running := rfl
@[simp] theorem readClock_stopRequested (s : State) : (readClock s).stopRequested = s.stopRequested := rfl
@[simp] theorem readClock_framesReady (s : State) : (readClock s).framesReady = s.framesReady := rfl
@[simp] theorem readClock_acc0 (s : State) : (readClock s).acc0 = s.acc0 := rfl
@[simp] theorem readClock_acc1 (s : State) : (readClock s).acc1 = s.acc1 := rfl
@[simp] theorem readClock_lb0 (s : State) : (readClock s).lb0 = s.lb0 := rfl
@[simp] theorem readClock_lb1 (s : State) : (readClock s).lb1 = s.lb1 := rfl
@[simp] theorem readClock_lb2 (s : State) : (readClock s).lb2 = s.lb2 := rfl
@[simp] theorem readClock_lb3 (s : State) : (readClock s).lb3 = s.lb3 := rfl
@[simp] theorem readClock_lb4 (s : State) : (readClock s).lb4 = s.lb4 := rfl
@[simp] theorem readClock_lb5 (s : State) : (readClock s).lb5 = s.lb5 := rfl
@[simp] theorem readClock_fb (s : State) : (readClock s).fb = s.fb := rfl
@[simp] theorem readClock_monitors (s : State) : (readClock s).monitors = s.monitors := rfl
@[simp] theorem readClock_events (s : State) : (readClock s).events = s.events := rfl
@[simp] theorem readClock_faults (s : State) : (readClock s).faults = s.faults := rfl
@[simp] theorem readClock_refused (s : State) : (readClock s).refused = s.refused := rfl
@[simp] theorem readClock_consumed (s : State) : (readClock s).consumed = s.consumed := rfl
@[simp] theorem readClock_presented (s : State) : (readClock s).presented = s.presented := rfl
@[simp] theorem readClock_schedule (s : State) : (readClock s).schedule = s.schedule := rfl
@[simp] theorem readClock_draws (s : State) : (readClock s).draws = s.draws := rfl
@[simp] theorem readClock_clockReads (s : State) : (readClock s).clockReads = s.clockReads + 1 := rfl
@[simp] theorem readClock_response (s : State) : (readClock s).response = s.response := rfl
@[simp] theorem readClock_box (s : State) : (readClock s).box = s.box := rfl
@[simp] theorem readClock_texel (s : State) : (readClock s).texel = s.texel := rfl
@[simp] theorem readClock_tileNum (s : State) : (readClock s).tileNum = s.tileNum := rfl
@[simp] theorem readClock_objPixel (s : State) : (readClock s).objPixel = s.objPixel := rfl
@[simp] theorem readClock_bmpPixel (s : State) : (readClock s).bmpPixel = s.bmpPixel := rfl
@[simp] theorem readClock_winMask (s : State) : (readClock s).winMask = s.winMask := rfl
@[simp] theorem readClock_winFx (s : State) : (readClock s).winFx = s.winFx := rfl

/-! ## setSprites -/

@[simp] theorem setSprites_mem (cells : List SpriteCell) (s : State) : (setSprites cells s).mem = s.mem := rfl
@[simp] theorem setSprites_line (cells : List SpriteCell) (s : State) : (setSprites cells s).line = s.line := rfl
@[simp] theorem setSprites_phase (cells : List SpriteCell) (s : State) : (setSprites cells s).phase = s.phase := rfl
@[simp] theorem setSprites_tLine (cells : List SpriteCell) (s : State) : (setSprites cells s).tLine = s.tLine := rfl
@[simp] theorem setSprites_running (cells : List SpriteCell) (s : State) : (setSprites cells s).running = s.running := rfl
@[simp] theorem setSprites_stopRequested (cells : List SpriteCell) (s : State) : (setSprites cells s).stopRequested = s.stopRequested := rfl
@[simp] theorem setSprites_framesReady (cells : List SpriteCell) (s : State) : (setSprites cells s).framesReady = s.framesReady := rfl
@[simp] theorem setSprites_acc0 (cells : List SpriteCell) (s : State) : (setSprites cells s).acc0 = s.acc0 := rfl
@[simp] theorem setSprites_acc1 (cells : List SpriteCell) (s : State) : (setSprites cells s).acc1 = s.acc1 := rfl
@[simp] theorem setSprites_lb0 (cells : List SpriteCell) (s : State) : (setSprites cells s).lb0 = s.lb0 := rfl
@[simp] theorem setSprites_lb1 (cells : List SpriteCell) (s : State) : (setSprites cells s).lb1 = s.lb1 := rfl
@[simp] theorem setSprites_lb2 (cells : List SpriteCell) (s : State) : (setSprites cells s).lb2 = s.lb2 := rfl
@[simp] theorem setSprites_lb3 (cells : List SpriteCell) (s : State) : (setSprites cells s).lb3 = s.lb3 := rfl
@[simp] theorem setSprites_lb4 (cells : List SpriteCell) (s : State) : (setSprites cells s).lb4 = cells.map Prod.fst := rfl
@[simp] theorem setSprites_lb5 (cells : List SpriteCell) (s : State) : (setSprites cells s).lb5 = cells.map Prod.snd := rfl
@[simp] theorem setSprites_fb (cells : List SpriteCell) (s : State) : (setSprites cells s).fb = s.fb := rfl
@[simp] theorem setSprites_monitors (cells : List SpriteCell) (s : State) : (setSprites cells s).monitors = s.monitors := rfl
@[simp] theorem setSprites_events (cells : List SpriteCell) (s : State) : (setSprites cells s).events = s.events := rfl
@[simp] theorem setSprites_faults (cells : List SpriteCell) (s : State) : (setSprites cells s).faults = s.faults := rfl
@[simp] theorem setSprites_refused (cells : List SpriteCell) (s : State) : (setSprites cells s).refused = s.refused := rfl
@[simp] theorem setSprites_consumed (cells : List SpriteCell) (s : State) : (setSprites cells s).consumed = s.consumed := rfl
@[simp] theorem setSprites_presented (cells : List SpriteCell) (s : State) : (setSprites cells s).presented = s.presented := rfl
@[simp] theorem setSprites_schedule (cells : List SpriteCell) (s : State) : (setSprites cells s).schedule = s.schedule := rfl
@[simp] theorem setSprites_draws (cells : List SpriteCell) (s : State) : (setSprites cells s).draws = s.draws := rfl
@[simp] theorem setSprites_clockReads (cells : List SpriteCell) (s : State) : (setSprites cells s).clockReads = s.clockReads := rfl
@[simp] theorem setSprites_response (cells : List SpriteCell) (s : State) : (setSprites cells s).response = s.response := rfl
@[simp] theorem setSprites_box (cells : List SpriteCell) (s : State) : (setSprites cells s).box = s.box := rfl
@[simp] theorem setSprites_texel (cells : List SpriteCell) (s : State) : (setSprites cells s).texel = s.texel := rfl
@[simp] theorem setSprites_tileNum (cells : List SpriteCell) (s : State) : (setSprites cells s).tileNum = s.tileNum := rfl
@[simp] theorem setSprites_objPixel (cells : List SpriteCell) (s : State) : (setSprites cells s).objPixel = s.objPixel := rfl
@[simp] theorem setSprites_bmpPixel (cells : List SpriteCell) (s : State) : (setSprites cells s).bmpPixel = s.bmpPixel := rfl
@[simp] theorem setSprites_winMask (cells : List SpriteCell) (s : State) : (setSprites cells s).winMask = s.winMask := rfl
@[simp] theorem setSprites_winFx (cells : List SpriteCell) (s : State) : (setSprites cells s).winFx = s.winFx := rfl

/-! ## statusCas -/

@[simp] theorem statusCas_mem (v h c : Bool) (s : State) : (statusCas v h c s).mem = s.mem.store 0x04000004 .word (withFlags (statusWord s.mem) v h c) := rfl
@[simp] theorem statusCas_line (v h c : Bool) (s : State) : (statusCas v h c s).line = s.line := rfl
@[simp] theorem statusCas_phase (v h c : Bool) (s : State) : (statusCas v h c s).phase = s.phase := rfl
@[simp] theorem statusCas_tLine (v h c : Bool) (s : State) : (statusCas v h c s).tLine = s.tLine := rfl
@[simp] theorem statusCas_running (v h c : Bool) (s : State) : (statusCas v h c s).running = s.running := rfl
@[simp] theorem statusCas_stopRequested (v h c : Bool) (s : State) : (statusCas v h c s).stopRequested = s.stopRequested := rfl
@[simp] theorem statusCas_framesReady (v h c : Bool) (s : State) : (statusCas v h c s).framesReady = s.framesReady := rfl
@[simp] theorem statusCas_acc0 (v h c : Bool) (s : State) : (statusCas v h c s).acc0 = s.acc0 := rfl
@[simp] theorem statusCas_acc1 (v h c : Bool) (s : State) : (statusCas v h c s).acc1 = s.acc1 := rfl
@[simp] theorem statusCas_lb0 (v h c : Bool) (s : State) : (statusCas v h c s).lb0 = s.lb0 := rfl
@[simp] theorem statusCas_lb1 (v h c : Bool) (s : State) : (statusCas v h c s).lb1 = s.lb1 := rfl
@[simp] theorem statusCas_lb2 (v h c : Bool) (s : State) : (statusCas v h c s).lb2 = s.lb2 := rfl
@[simp] theorem statusCas_lb3 (v h c : Bool) (s : State) : (statusCas v h c s).lb3 = s.lb3 := rfl
@[simp] theorem statusCas_lb4 (v h c : Bool) (s : State) : (statusCas v h c s).lb4 = s.lb4 := rfl
@[simp] theorem statusCas_lb5 (v h c : Bool) (s : State) : (statusCas v h c s).lb5 = s.lb5 := rfl
@[simp] theorem statusCas_fb (v h c : Bool) (s : State) : (statusCas v h c s).fb = s.fb := rfl
@[simp] theorem statusCas_monitors (v h c : Bool) (s : State) : (statusCas v h c s).monitors = s.monitors := rfl
@[simp] theorem statusCas_events (v h c : Bool) (s : State) : (statusCas v h c s).events = s.events := rfl
@[simp] theorem statusCas_faults (v h c : Bool) (s : State) : (statusCas v h c s).faults = s.faults := rfl
@[simp] theorem statusCas_refused (v h c : Bool) (s : State) : (statusCas v h c s).refused = s.refused := rfl
@[simp] theorem statusCas_consumed (v h c : Bool) (s : State) : (statusCas v h c s).consumed = s.consumed := rfl
@[simp] theorem statusCas_presented (v h c : Bool) (s : State) : (statusCas v h c s).presented = s.presented := rfl
@[simp] theorem statusCas_schedule (v h c : Bool) (s : State) : (statusCas v h c s).schedule = s.schedule := rfl
@[simp] theorem statusCas_draws (v h c : Bool) (s : State) : (statusCas v h c s).draws = s.draws := rfl
@[simp] theorem statusCas_clockReads (v h c : Bool) (s : State) : (statusCas v h c s).clockReads = s.clockReads := rfl
@[simp] theorem statusCas_response (v h c : Bool) (s : State) : (statusCas v h c s).response = s.response := rfl
@[simp] theorem statusCas_box (v h c : Bool) (s : State) : (statusCas v h c s).box = s.box := rfl
@[simp] theorem statusCas_texel (v h c : Bool) (s : State) : (statusCas v h c s).texel = s.texel := rfl
@[simp] theorem statusCas_tileNum (v h c : Bool) (s : State) : (statusCas v h c s).tileNum = s.tileNum := rfl
@[simp] theorem statusCas_objPixel (v h c : Bool) (s : State) : (statusCas v h c s).objPixel = s.objPixel := rfl
@[simp] theorem statusCas_bmpPixel (v h c : Bool) (s : State) : (statusCas v h c s).bmpPixel = s.bmpPixel := rfl
@[simp] theorem statusCas_winMask (v h c : Bool) (s : State) : (statusCas v h c s).winMask = s.winMask := rfl
@[simp] theorem statusCas_winFx (v h c : Bool) (s : State) : (statusCas v h c s).winFx = s.winFx := rfl

/-! ## advanceAccumulators -/

@[simp] theorem advanceAccumulators_mem (m : Memory) (s : State) : (advanceAccumulators m s).mem = s.mem := rfl
@[simp] theorem advanceAccumulators_line (m : Memory) (s : State) : (advanceAccumulators m s).line = s.line := rfl
@[simp] theorem advanceAccumulators_phase (m : Memory) (s : State) : (advanceAccumulators m s).phase = s.phase := rfl
@[simp] theorem advanceAccumulators_tLine (m : Memory) (s : State) : (advanceAccumulators m s).tLine = s.tLine := rfl
@[simp] theorem advanceAccumulators_running (m : Memory) (s : State) : (advanceAccumulators m s).running = s.running := rfl
@[simp] theorem advanceAccumulators_stopRequested (m : Memory) (s : State) : (advanceAccumulators m s).stopRequested = s.stopRequested := rfl
@[simp] theorem advanceAccumulators_framesReady (m : Memory) (s : State) : (advanceAccumulators m s).framesReady = s.framesReady := rfl
@[simp] theorem advanceAccumulators_acc0 (m : Memory) (s : State) : (advanceAccumulators m s).acc0 = advanceAcc m 0#1 s.acc0 := rfl
@[simp] theorem advanceAccumulators_acc1 (m : Memory) (s : State) : (advanceAccumulators m s).acc1 = advanceAcc m 1#1 s.acc1 := rfl
@[simp] theorem advanceAccumulators_lb0 (m : Memory) (s : State) : (advanceAccumulators m s).lb0 = s.lb0 := rfl
@[simp] theorem advanceAccumulators_lb1 (m : Memory) (s : State) : (advanceAccumulators m s).lb1 = s.lb1 := rfl
@[simp] theorem advanceAccumulators_lb2 (m : Memory) (s : State) : (advanceAccumulators m s).lb2 = s.lb2 := rfl
@[simp] theorem advanceAccumulators_lb3 (m : Memory) (s : State) : (advanceAccumulators m s).lb3 = s.lb3 := rfl
@[simp] theorem advanceAccumulators_lb4 (m : Memory) (s : State) : (advanceAccumulators m s).lb4 = s.lb4 := rfl
@[simp] theorem advanceAccumulators_lb5 (m : Memory) (s : State) : (advanceAccumulators m s).lb5 = s.lb5 := rfl
@[simp] theorem advanceAccumulators_fb (m : Memory) (s : State) : (advanceAccumulators m s).fb = s.fb := rfl
@[simp] theorem advanceAccumulators_monitors (m : Memory) (s : State) : (advanceAccumulators m s).monitors = s.monitors := rfl
@[simp] theorem advanceAccumulators_events (m : Memory) (s : State) : (advanceAccumulators m s).events = s.events := rfl
@[simp] theorem advanceAccumulators_faults (m : Memory) (s : State) : (advanceAccumulators m s).faults = s.faults := rfl
@[simp] theorem advanceAccumulators_refused (m : Memory) (s : State) : (advanceAccumulators m s).refused = s.refused := rfl
@[simp] theorem advanceAccumulators_consumed (m : Memory) (s : State) : (advanceAccumulators m s).consumed = s.consumed := rfl
@[simp] theorem advanceAccumulators_presented (m : Memory) (s : State) : (advanceAccumulators m s).presented = s.presented := rfl
@[simp] theorem advanceAccumulators_schedule (m : Memory) (s : State) : (advanceAccumulators m s).schedule = s.schedule := rfl
@[simp] theorem advanceAccumulators_draws (m : Memory) (s : State) : (advanceAccumulators m s).draws = s.draws := rfl
@[simp] theorem advanceAccumulators_clockReads (m : Memory) (s : State) : (advanceAccumulators m s).clockReads = s.clockReads := rfl
@[simp] theorem advanceAccumulators_response (m : Memory) (s : State) : (advanceAccumulators m s).response = s.response := rfl
@[simp] theorem advanceAccumulators_box (m : Memory) (s : State) : (advanceAccumulators m s).box = s.box := rfl
@[simp] theorem advanceAccumulators_texel (m : Memory) (s : State) : (advanceAccumulators m s).texel = s.texel := rfl
@[simp] theorem advanceAccumulators_tileNum (m : Memory) (s : State) : (advanceAccumulators m s).tileNum = s.tileNum := rfl
@[simp] theorem advanceAccumulators_objPixel (m : Memory) (s : State) : (advanceAccumulators m s).objPixel = s.objPixel := rfl
@[simp] theorem advanceAccumulators_bmpPixel (m : Memory) (s : State) : (advanceAccumulators m s).bmpPixel = s.bmpPixel := rfl
@[simp] theorem advanceAccumulators_winMask (m : Memory) (s : State) : (advanceAccumulators m s).winMask = s.winMask := rfl
@[simp] theorem advanceAccumulators_winFx (m : Memory) (s : State) : (advanceAccumulators m s).winFx = s.winFx := rfl

/-! ## reloadAccumulators -/

@[simp] theorem reloadAccumulators_mem (s : State) : (reloadAccumulators s).mem = s.mem := rfl
@[simp] theorem reloadAccumulators_line (s : State) : (reloadAccumulators s).line = s.line := rfl
@[simp] theorem reloadAccumulators_phase (s : State) : (reloadAccumulators s).phase = s.phase := rfl
@[simp] theorem reloadAccumulators_tLine (s : State) : (reloadAccumulators s).tLine = s.tLine := rfl
@[simp] theorem reloadAccumulators_running (s : State) : (reloadAccumulators s).running = s.running := rfl
@[simp] theorem reloadAccumulators_stopRequested (s : State) : (reloadAccumulators s).stopRequested = s.stopRequested := rfl
@[simp] theorem reloadAccumulators_framesReady (s : State) : (reloadAccumulators s).framesReady = s.framesReady := rfl
@[simp] theorem reloadAccumulators_acc0 (s : State) : (reloadAccumulators s).acc0 = loadAcc s.mem 0#1 := rfl
@[simp] theorem reloadAccumulators_acc1 (s : State) : (reloadAccumulators s).acc1 = loadAcc s.mem 1#1 := rfl
@[simp] theorem reloadAccumulators_lb0 (s : State) : (reloadAccumulators s).lb0 = s.lb0 := rfl
@[simp] theorem reloadAccumulators_lb1 (s : State) : (reloadAccumulators s).lb1 = s.lb1 := rfl
@[simp] theorem reloadAccumulators_lb2 (s : State) : (reloadAccumulators s).lb2 = s.lb2 := rfl
@[simp] theorem reloadAccumulators_lb3 (s : State) : (reloadAccumulators s).lb3 = s.lb3 := rfl
@[simp] theorem reloadAccumulators_lb4 (s : State) : (reloadAccumulators s).lb4 = s.lb4 := rfl
@[simp] theorem reloadAccumulators_lb5 (s : State) : (reloadAccumulators s).lb5 = s.lb5 := rfl
@[simp] theorem reloadAccumulators_fb (s : State) : (reloadAccumulators s).fb = s.fb := rfl
@[simp] theorem reloadAccumulators_monitors (s : State) : (reloadAccumulators s).monitors = s.monitors := rfl
@[simp] theorem reloadAccumulators_events (s : State) : (reloadAccumulators s).events = s.events := rfl
@[simp] theorem reloadAccumulators_faults (s : State) : (reloadAccumulators s).faults = s.faults := rfl
@[simp] theorem reloadAccumulators_refused (s : State) : (reloadAccumulators s).refused = s.refused := rfl
@[simp] theorem reloadAccumulators_consumed (s : State) : (reloadAccumulators s).consumed = s.consumed := rfl
@[simp] theorem reloadAccumulators_presented (s : State) : (reloadAccumulators s).presented = s.presented := rfl
@[simp] theorem reloadAccumulators_schedule (s : State) : (reloadAccumulators s).schedule = s.schedule := rfl
@[simp] theorem reloadAccumulators_draws (s : State) : (reloadAccumulators s).draws = s.draws := rfl
@[simp] theorem reloadAccumulators_clockReads (s : State) : (reloadAccumulators s).clockReads = s.clockReads := rfl
@[simp] theorem reloadAccumulators_response (s : State) : (reloadAccumulators s).response = s.response := rfl
@[simp] theorem reloadAccumulators_box (s : State) : (reloadAccumulators s).box = s.box := rfl
@[simp] theorem reloadAccumulators_texel (s : State) : (reloadAccumulators s).texel = s.texel := rfl
@[simp] theorem reloadAccumulators_tileNum (s : State) : (reloadAccumulators s).tileNum = s.tileNum := rfl
@[simp] theorem reloadAccumulators_objPixel (s : State) : (reloadAccumulators s).objPixel = s.objPixel := rfl
@[simp] theorem reloadAccumulators_bmpPixel (s : State) : (reloadAccumulators s).bmpPixel = s.bmpPixel := rfl
@[simp] theorem reloadAccumulators_winMask (s : State) : (reloadAccumulators s).winMask = s.winMask := rfl
@[simp] theorem reloadAccumulators_winFx (s : State) : (reloadAccumulators s).winFx = s.winFx := rfl

/-! ## presenterRead -/

@[simp] theorem presenterRead_mem (y : Fin 160) (x : Fin 240) (s : State) : (presenterRead y x s).mem = s.mem := rfl
@[simp] theorem presenterRead_line (y : Fin 160) (x : Fin 240) (s : State) : (presenterRead y x s).line = s.line := rfl
@[simp] theorem presenterRead_phase (y : Fin 160) (x : Fin 240) (s : State) : (presenterRead y x s).phase = s.phase := rfl
@[simp] theorem presenterRead_tLine (y : Fin 160) (x : Fin 240) (s : State) : (presenterRead y x s).tLine = s.tLine := rfl
@[simp] theorem presenterRead_running (y : Fin 160) (x : Fin 240) (s : State) : (presenterRead y x s).running = s.running := rfl
@[simp] theorem presenterRead_stopRequested (y : Fin 160) (x : Fin 240) (s : State) : (presenterRead y x s).stopRequested = s.stopRequested := rfl
@[simp] theorem presenterRead_framesReady (y : Fin 160) (x : Fin 240) (s : State) : (presenterRead y x s).framesReady = s.framesReady := rfl
@[simp] theorem presenterRead_acc0 (y : Fin 160) (x : Fin 240) (s : State) : (presenterRead y x s).acc0 = s.acc0 := rfl
@[simp] theorem presenterRead_acc1 (y : Fin 160) (x : Fin 240) (s : State) : (presenterRead y x s).acc1 = s.acc1 := rfl
@[simp] theorem presenterRead_lb0 (y : Fin 160) (x : Fin 240) (s : State) : (presenterRead y x s).lb0 = s.lb0 := rfl
@[simp] theorem presenterRead_lb1 (y : Fin 160) (x : Fin 240) (s : State) : (presenterRead y x s).lb1 = s.lb1 := rfl
@[simp] theorem presenterRead_lb2 (y : Fin 160) (x : Fin 240) (s : State) : (presenterRead y x s).lb2 = s.lb2 := rfl
@[simp] theorem presenterRead_lb3 (y : Fin 160) (x : Fin 240) (s : State) : (presenterRead y x s).lb3 = s.lb3 := rfl
@[simp] theorem presenterRead_lb4 (y : Fin 160) (x : Fin 240) (s : State) : (presenterRead y x s).lb4 = s.lb4 := rfl
@[simp] theorem presenterRead_lb5 (y : Fin 160) (x : Fin 240) (s : State) : (presenterRead y x s).lb5 = s.lb5 := rfl
@[simp] theorem presenterRead_fb (y : Fin 160) (x : Fin 240) (s : State) : (presenterRead y x s).fb = s.fb := rfl
@[simp] theorem presenterRead_monitors (y : Fin 160) (x : Fin 240) (s : State) : (presenterRead y x s).monitors = s.monitors := rfl
@[simp] theorem presenterRead_events (y : Fin 160) (x : Fin 240) (s : State) : (presenterRead y x s).events = s.events := rfl
@[simp] theorem presenterRead_faults (y : Fin 160) (x : Fin 240) (s : State) : (presenterRead y x s).faults = s.faults := rfl
@[simp] theorem presenterRead_refused (y : Fin 160) (x : Fin 240) (s : State) : (presenterRead y x s).refused = s.refused := rfl
@[simp] theorem presenterRead_consumed (y : Fin 160) (x : Fin 240) (s : State) : (presenterRead y x s).consumed = s.consumed := rfl
@[simp] theorem presenterRead_presented (y : Fin 160) (x : Fin 240) (s : State) : (presenterRead y x s).presented = fbPixel s y.val x.val := rfl
@[simp] theorem presenterRead_schedule (y : Fin 160) (x : Fin 240) (s : State) : (presenterRead y x s).schedule = s.schedule := rfl
@[simp] theorem presenterRead_draws (y : Fin 160) (x : Fin 240) (s : State) : (presenterRead y x s).draws = s.draws := rfl
@[simp] theorem presenterRead_clockReads (y : Fin 160) (x : Fin 240) (s : State) : (presenterRead y x s).clockReads = s.clockReads := rfl
@[simp] theorem presenterRead_response (y : Fin 160) (x : Fin 240) (s : State) : (presenterRead y x s).response = s.response := rfl
@[simp] theorem presenterRead_box (y : Fin 160) (x : Fin 240) (s : State) : (presenterRead y x s).box = s.box := rfl
@[simp] theorem presenterRead_texel (y : Fin 160) (x : Fin 240) (s : State) : (presenterRead y x s).texel = s.texel := rfl
@[simp] theorem presenterRead_tileNum (y : Fin 160) (x : Fin 240) (s : State) : (presenterRead y x s).tileNum = s.tileNum := rfl
@[simp] theorem presenterRead_objPixel (y : Fin 160) (x : Fin 240) (s : State) : (presenterRead y x s).objPixel = s.objPixel := rfl
@[simp] theorem presenterRead_bmpPixel (y : Fin 160) (x : Fin 240) (s : State) : (presenterRead y x s).bmpPixel = s.bmpPixel := rfl
@[simp] theorem presenterRead_winMask (y : Fin 160) (x : Fin 240) (s : State) : (presenterRead y x s).winMask = s.winMask := rfl
@[simp] theorem presenterRead_winFx (y : Fin 160) (x : Fin 240) (s : State) : (presenterRead y x s).winFx = s.winFx := rfl

/-! ## signalFrameReady -/

@[simp] theorem signalFrameReady_mem (s : State) : (signalFrameReady s).mem = s.mem := rfl
@[simp] theorem signalFrameReady_line (s : State) : (signalFrameReady s).line = s.line := rfl
@[simp] theorem signalFrameReady_phase (s : State) : (signalFrameReady s).phase = s.phase := rfl
@[simp] theorem signalFrameReady_tLine (s : State) : (signalFrameReady s).tLine = s.tLine := rfl
@[simp] theorem signalFrameReady_running (s : State) : (signalFrameReady s).running = s.running := rfl
@[simp] theorem signalFrameReady_stopRequested (s : State) : (signalFrameReady s).stopRequested = s.stopRequested := rfl
@[simp] theorem signalFrameReady_framesReady (s : State) : (signalFrameReady s).framesReady = s.framesReady + 1 := rfl
@[simp] theorem signalFrameReady_acc0 (s : State) : (signalFrameReady s).acc0 = s.acc0 := rfl
@[simp] theorem signalFrameReady_acc1 (s : State) : (signalFrameReady s).acc1 = s.acc1 := rfl
@[simp] theorem signalFrameReady_lb0 (s : State) : (signalFrameReady s).lb0 = s.lb0 := rfl
@[simp] theorem signalFrameReady_lb1 (s : State) : (signalFrameReady s).lb1 = s.lb1 := rfl
@[simp] theorem signalFrameReady_lb2 (s : State) : (signalFrameReady s).lb2 = s.lb2 := rfl
@[simp] theorem signalFrameReady_lb3 (s : State) : (signalFrameReady s).lb3 = s.lb3 := rfl
@[simp] theorem signalFrameReady_lb4 (s : State) : (signalFrameReady s).lb4 = s.lb4 := rfl
@[simp] theorem signalFrameReady_lb5 (s : State) : (signalFrameReady s).lb5 = s.lb5 := rfl
@[simp] theorem signalFrameReady_fb (s : State) : (signalFrameReady s).fb = s.fb := rfl
@[simp] theorem signalFrameReady_monitors (s : State) : (signalFrameReady s).monitors = s.monitors := rfl
@[simp] theorem signalFrameReady_events (s : State) : (signalFrameReady s).events = s.events ++ [.frameReady (s.framesReady + 1)] := rfl
@[simp] theorem signalFrameReady_faults (s : State) : (signalFrameReady s).faults = s.faults := rfl
@[simp] theorem signalFrameReady_refused (s : State) : (signalFrameReady s).refused = s.refused := rfl
@[simp] theorem signalFrameReady_consumed (s : State) : (signalFrameReady s).consumed = s.consumed := rfl
@[simp] theorem signalFrameReady_presented (s : State) : (signalFrameReady s).presented = s.presented := rfl
@[simp] theorem signalFrameReady_schedule (s : State) : (signalFrameReady s).schedule = s.schedule := rfl
@[simp] theorem signalFrameReady_draws (s : State) : (signalFrameReady s).draws = s.draws := rfl
@[simp] theorem signalFrameReady_clockReads (s : State) : (signalFrameReady s).clockReads = s.clockReads := rfl
@[simp] theorem signalFrameReady_response (s : State) : (signalFrameReady s).response = s.response := rfl
@[simp] theorem signalFrameReady_box (s : State) : (signalFrameReady s).box = s.box := rfl
@[simp] theorem signalFrameReady_texel (s : State) : (signalFrameReady s).texel = s.texel := rfl
@[simp] theorem signalFrameReady_tileNum (s : State) : (signalFrameReady s).tileNum = s.tileNum := rfl
@[simp] theorem signalFrameReady_objPixel (s : State) : (signalFrameReady s).objPixel = s.objPixel := rfl
@[simp] theorem signalFrameReady_bmpPixel (s : State) : (signalFrameReady s).bmpPixel = s.bmpPixel := rfl
@[simp] theorem signalFrameReady_winMask (s : State) : (signalFrameReady s).winMask = s.winMask := rfl
@[simp] theorem signalFrameReady_winFx (s : State) : (signalFrameReady s).winFx = s.winFx := rfl

/-! ## setLb -/

@[simp] theorem setLb_lb0 (n : BitVec 2) (row : List Half) (s : State) :
    (setLb n row s).lb0 = if n = 0#2 then row else s.lb0 := by
  obtain rfl | rfl | rfl | rfl := layer_cases n
  all_goals rfl
@[simp] theorem setLb_lb1 (n : BitVec 2) (row : List Half) (s : State) :
    (setLb n row s).lb1 = if n = 1#2 then row else s.lb1 := by
  obtain rfl | rfl | rfl | rfl := layer_cases n
  all_goals rfl
@[simp] theorem setLb_lb2 (n : BitVec 2) (row : List Half) (s : State) :
    (setLb n row s).lb2 = if n = 2#2 then row else s.lb2 := by
  obtain rfl | rfl | rfl | rfl := layer_cases n
  all_goals rfl
@[simp] theorem setLb_lb3 (n : BitVec 2) (row : List Half) (s : State) :
    (setLb n row s).lb3 = if n = 3#2 then row else s.lb3 := by
  obtain rfl | rfl | rfl | rfl := layer_cases n
  all_goals rfl
@[simp] theorem setLb_mem (n : BitVec 2) (row : List Half) (s : State) : (setLb n row s).mem = s.mem := by
  unfold setLb; split <;> rfl
@[simp] theorem setLb_line (n : BitVec 2) (row : List Half) (s : State) : (setLb n row s).line = s.line := by
  unfold setLb; split <;> rfl
@[simp] theorem setLb_phase (n : BitVec 2) (row : List Half) (s : State) : (setLb n row s).phase = s.phase := by
  unfold setLb; split <;> rfl
@[simp] theorem setLb_tLine (n : BitVec 2) (row : List Half) (s : State) : (setLb n row s).tLine = s.tLine := by
  unfold setLb; split <;> rfl
@[simp] theorem setLb_running (n : BitVec 2) (row : List Half) (s : State) : (setLb n row s).running = s.running := by
  unfold setLb; split <;> rfl
@[simp] theorem setLb_stopRequested (n : BitVec 2) (row : List Half) (s : State) : (setLb n row s).stopRequested = s.stopRequested := by
  unfold setLb; split <;> rfl
@[simp] theorem setLb_framesReady (n : BitVec 2) (row : List Half) (s : State) : (setLb n row s).framesReady = s.framesReady := by
  unfold setLb; split <;> rfl
@[simp] theorem setLb_acc0 (n : BitVec 2) (row : List Half) (s : State) : (setLb n row s).acc0 = s.acc0 := by
  unfold setLb; split <;> rfl
@[simp] theorem setLb_acc1 (n : BitVec 2) (row : List Half) (s : State) : (setLb n row s).acc1 = s.acc1 := by
  unfold setLb; split <;> rfl
@[simp] theorem setLb_lb4 (n : BitVec 2) (row : List Half) (s : State) : (setLb n row s).lb4 = s.lb4 := by
  unfold setLb; split <;> rfl
@[simp] theorem setLb_lb5 (n : BitVec 2) (row : List Half) (s : State) : (setLb n row s).lb5 = s.lb5 := by
  unfold setLb; split <;> rfl
@[simp] theorem setLb_fb (n : BitVec 2) (row : List Half) (s : State) : (setLb n row s).fb = s.fb := by
  unfold setLb; split <;> rfl
@[simp] theorem setLb_monitors (n : BitVec 2) (row : List Half) (s : State) : (setLb n row s).monitors = s.monitors := by
  unfold setLb; split <;> rfl
@[simp] theorem setLb_events (n : BitVec 2) (row : List Half) (s : State) : (setLb n row s).events = s.events := by
  unfold setLb; split <;> rfl
@[simp] theorem setLb_faults (n : BitVec 2) (row : List Half) (s : State) : (setLb n row s).faults = s.faults := by
  unfold setLb; split <;> rfl
@[simp] theorem setLb_refused (n : BitVec 2) (row : List Half) (s : State) : (setLb n row s).refused = s.refused := by
  unfold setLb; split <;> rfl
@[simp] theorem setLb_consumed (n : BitVec 2) (row : List Half) (s : State) : (setLb n row s).consumed = s.consumed := by
  unfold setLb; split <;> rfl
@[simp] theorem setLb_presented (n : BitVec 2) (row : List Half) (s : State) : (setLb n row s).presented = s.presented := by
  unfold setLb; split <;> rfl
@[simp] theorem setLb_schedule (n : BitVec 2) (row : List Half) (s : State) : (setLb n row s).schedule = s.schedule := by
  unfold setLb; split <;> rfl
@[simp] theorem setLb_draws (n : BitVec 2) (row : List Half) (s : State) : (setLb n row s).draws = s.draws := by
  unfold setLb; split <;> rfl
@[simp] theorem setLb_clockReads (n : BitVec 2) (row : List Half) (s : State) : (setLb n row s).clockReads = s.clockReads := by
  unfold setLb; split <;> rfl
@[simp] theorem setLb_response (n : BitVec 2) (row : List Half) (s : State) : (setLb n row s).response = s.response := by
  unfold setLb; split <;> rfl
@[simp] theorem setLb_box (n : BitVec 2) (row : List Half) (s : State) : (setLb n row s).box = s.box := by
  unfold setLb; split <;> rfl
@[simp] theorem setLb_texel (n : BitVec 2) (row : List Half) (s : State) : (setLb n row s).texel = s.texel := by
  unfold setLb; split <;> rfl
@[simp] theorem setLb_tileNum (n : BitVec 2) (row : List Half) (s : State) : (setLb n row s).tileNum = s.tileNum := by
  unfold setLb; split <;> rfl
@[simp] theorem setLb_objPixel (n : BitVec 2) (row : List Half) (s : State) : (setLb n row s).objPixel = s.objPixel := by
  unfold setLb; split <;> rfl
@[simp] theorem setLb_bmpPixel (n : BitVec 2) (row : List Half) (s : State) : (setLb n row s).bmpPixel = s.bmpPixel := by
  unfold setLb; split <;> rfl
@[simp] theorem setLb_winMask (n : BitVec 2) (row : List Half) (s : State) : (setLb n row s).winMask = s.winMask := by
  unfold setLb; split <;> rfl
@[simp] theorem setLb_winFx (n : BitVec 2) (row : List Half) (s : State) : (setLb n row s).winFx = s.winFx := by
  unfold setLb; split <;> rfl

/-- What a layer's line buffer holds after it is set. -/
theorem lbOf_setLb (n : BitVec 2) (row : List Half) (s : State) : lbOf (setLb n row s) n = row := by
  obtain rfl | rfl | rfl | rfl := layer_cases n
  all_goals rfl

/-- Setting one layer's line buffer leaves the others. -/
theorem lbOf_setLb_other (n k : BitVec 2) (row : List Half) (s : State) (h : k ≠ n) :
    lbOf (setLb n row s) k = lbOf s k := by
  obtain rfl | rfl | rfl | rfl := layer_cases n
  all_goals obtain rfl | rfl | rfl | rfl := layer_cases k
  all_goals first | rfl | exact absurd rfl h

/-- What a slot's accumulator holds after it is set. -/
theorem accOf_setAcc (k : BitVec 1) (a : Acc) (s : State) : accOf (setAcc k a s) k = a := by
  unfold accOf; split <;> simp [*]

end Sys2Proof.Machine
end

