-- ==== Sys2Proof/Laws/Ops.lean ====
section
/-! SUPPORT. One lemma for each shared operation that says what it can do: the bus checks, the monitors, a bus store,
the guards, the Engine's move, a command, a step. -/

namespace Sys2Proof.Machine

/-! ## The bus checks -/

/-- A window by its ends. -/
theorem inSpace_iff (sp : Space) (a n : Nat) :
    inSpace sp a n = true ↔ spaceBase sp ≤ a ∧ a + n ≤ spaceBase sp + spaceSize sp := by
  simp [inSpace]

/-- The four windows by their addresses (20_memory.md R200). -/
theorem inWindow_iff (a n : Nat) :
    inWindow a n = true ↔
      (0x04000000 ≤ a ∧ a + n ≤ 0x04000060) ∨ (0x05000000 ≤ a ∧ a + n ≤ 0x05000400) ∨
        (0x06000000 ≤ a ∧ a + n ≤ 0x06018000) ∨ (0x07000000 ≤ a ∧ a + n ≤ 0x07000400) := by
  unfold inWindow
  simp only [Bool.or_eq_true, inSpace_iff, spaceBase, spaceSize, or_assoc]

/-- Outside the windows a transaction is refused (60_exceptions.md R902, R907). -/
theorem busChecked_outside {addr : Addr} {w : Width} {k : State → State} {s : State}
    (h : inWindow addr.toNat (widthBytes w) = false) : busChecked addr w k s = refuse s := by
  simp [busChecked, h]

/-- Inside them a misaligned one raises StoreFault (R901, R907). -/
theorem busChecked_misaligned {addr : Addr} {w : Width} {k : State → State} {s : State}
    (h : inWindow addr.toNat (widthBytes w) = true) (ha : addr.toNat % widthBytes w ≠ 0) :
    busChecked addr w k s = raiseStoreFault (.misaligned addr (widthBytes w)) s := by
  simp [busChecked, h, ha]

/-- An aligned one inside them is performed. -/
theorem busChecked_ok {addr : Addr} {w : Width} {k : State → State} {s : State}
    (h : inWindow addr.toNat (widthBytes w) = true) (ha : addr.toNat % widthBytes w = 0) :
    busChecked addr w k s = k s := by
  simp [busChecked, h, ha]

/-- Everything the checks can do. -/
theorem busChecked_cases (addr : Addr) (w : Width) (k : State → State) (s : State) :
    busChecked addr w k s = refuse s ∨
      busChecked addr w k s = raiseStoreFault (.misaligned addr (widthBytes w)) s ∨
      (inWindow addr.toNat (widthBytes w) = true ∧ addr.toNat % widthBytes w = 0 ∧ busChecked addr w k s = k s) := by
  cases h : inWindow addr.toNat (widthBytes w)
  · exact .inl (busChecked_outside h)
  · by_cases ha : addr.toNat % widthBytes w = 0
    · exact .inr (.inr ⟨rfl, ha, busChecked_ok h ha⟩)
    · exact .inr (.inl (busChecked_misaligned h ha))

/-! ## Monitors -/

/-- A refresh changes nothing but one accumulator pair. -/
theorem refreshSlot_frame (k : BitVec 1) (c : MonitorCall) (s : State) :
    ∃ a0 a1, refreshSlot k c s = { s with acc0 := a0, acc1 := a1 } := by
  unfold refreshSlot setAcc
  dsimp only
  split
  · split
    · exact ⟨_, s.acc1, rfl⟩
    · exact ⟨s.acc0, _, rfl⟩
  · split
    · split
      · exact ⟨_, s.acc1, rfl⟩
      · exact ⟨s.acc0, _, rfl⟩
    · exact ⟨s.acc0, s.acc1, rfl⟩

/-- The monitors change nothing but the accumulators (40_register_interface.md R409, R410). -/
theorem runMonitors_frame (addr : Addr) (w : Width) (old new : Word) (s : State) :
    ∃ a0 a1, runMonitors addr w old new s = { s with acc0 := a0, acc1 := a1 } := by
  suffices h : ∀ (ms : List Monitor) (u : State), ∃ a0 a1,
      ms.foldl (fun t e => if monitorHit e addr w then refreshSlot e.slot (monitorCall addr w old new) t else t) u =
        { u with acc0 := a0, acc1 := a1 } from h s.monitors s
  intro ms
  induction ms with
  | nil => exact fun u => ⟨u.acc0, u.acc1, rfl⟩
  | cons e rest ih =>
    intro u
    simp only [List.foldl_cons]
    split
    · obtain ⟨b0, b1, hb⟩ := refreshSlot_frame e.slot (monitorCall addr w old new) u
      obtain ⟨a0, a1, ha⟩ := ih (refreshSlot e.slot (monitorCall addr w old new) u)
      refine ⟨a0, a1, ?_⟩
      rw [ha, hb]
    · exact ih u

/-- The word that holds an address. -/
theorem wordAddr_toNat (a : Addr) : (wordAddr a).toNat = a.toNat / 4 * 4 := by
  have hlow : (a &&& 3#32).toNat = a.toNat % 4 := by
    rw [BitVec.toNat_and]; exact Nat.and_two_pow_sub_one_eq_mod _ 2
  have hsum : wordAddr a + (a &&& 3#32) = a := by
    have hdis : wordAddr a &&& (a &&& 3#32) = 0#32 := by
      apply BitVec.eq_of_getLsbD_eq; intro i hi
      rw [wordAddr, show 0xFFFFFFFC#32 = ~~~(3#32) from rfl]
      simp only [BitVec.getLsbD_and, BitVec.getLsbD_not]
      cases a.getLsbD i <;> cases (3#32).getLsbD i <;> simp
    rw [BitVec.add_eq_or_of_and_eq_zero _ _ hdis]
    apply BitVec.eq_of_getLsbD_eq; intro i hi
    rw [wordAddr, show 0xFFFFFFFC#32 = ~~~(3#32) from rfl]
    simp only [BitVec.getLsbD_or, BitVec.getLsbD_and, BitVec.getLsbD_not, hi]
    cases a.getLsbD i <;> cases (3#32).getLsbD i <;> simp
  have h := congrArg BitVec.toNat ((BitVec.sub_eq_iff_eq_add).2 hsum.symm)
  rw [BitVec.toNat_sub, hlow] at h
  have := a.isLt
  omega

/-- A refresh, register by register (40_register_interface.md R410). -/
theorem refreshSlot_acc (k : BitVec 1) (c : MonitorCall) (s : State) :
    let r := refreshSlot k c s
    let q := c.address.toNat / 4 * 4
    (r.acc0.x = if q = 0x04000028 ∧ k = 0#1 then refPoint c.new else s.acc0.x) ∧
    (r.acc0.y = if q = 0x0400002C ∧ k = 0#1 then refPoint c.new else s.acc0.y) ∧
    (r.acc1.x = if q = 0x04000038 ∧ k = 1#1 then refPoint c.new else s.acc1.x) ∧
    (r.acc1.y = if q = 0x0400003C ∧ k = 1#1 then refPoint c.new else s.acc1.y) := by
  have hk : ∀ j : BitVec 1, j = 0#1 ∨ j = 1#1 := by decide
  dsimp only
  rcases hk k with rfl | rfl
  all_goals
    simp only [refreshSlot, wordAddr_toNat, show ioAddr (slotOff 0#1 + 8) = 0x04000028 from rfl,
      show ioAddr (slotOff 1#1 + 8) = 0x04000038 from rfl]
    generalize c.address.toNat / 4 * 4 = q
    split
    · subst q; simp [setAcc, accOf]
    · split
      · subst q; simp [setAcc, accOf]
      · simp [*]

/-- What a list of monitors does to the accumulators: a register of the slot of some entry that the write meets is
loaded, every other keeps its value (R409, R410). -/
theorem monitors_acc (addr : Addr) (w : Width) (old new : Word) (ms : List Monitor) (u : State) :
    let r := ms.foldl
      (fun t e => if monitorHit e addr w then refreshSlot e.slot (monitorCall addr w old new) t else t) u
    let met := fun k => ∃ e ∈ ms, monitorHit e addr w = true ∧ e.slot = k
    let q := addr.toNat / 4 * 4
    (r.acc0.x = if q = 0x04000028 ∧ met 0#1 then refPoint new else u.acc0.x) ∧
    (r.acc0.y = if q = 0x0400002C ∧ met 0#1 then refPoint new else u.acc0.y) ∧
    (r.acc1.x = if q = 0x04000038 ∧ met 1#1 then refPoint new else u.acc1.x) ∧
    (r.acc1.y = if q = 0x0400003C ∧ met 1#1 then refPoint new else u.acc1.y) := by
  have one : ∀ (p a b : Prop) [Decidable (p ∧ b)] [Decidable (p ∧ a)] [Decidable (p ∧ (a ∨ b))] (x y : BitVec 28),
      (if p ∧ b then x else if p ∧ a then x else y) = if p ∧ (a ∨ b) then x else y := by
    intro p a b _ _ _ x y; by_cases p <;> by_cases a <;> by_cases b <;> simp [*]
  induction ms generalizing u with
  | nil => simp
  | cons e rest ih =>
    dsimp only [List.foldl_cons] at ih ⊢
    by_cases hit : monitorHit e addr w = true
    · obtain ⟨h1, h2, h3, h4⟩ := ih (refreshSlot e.slot (monitorCall addr w old new) u)
      obtain ⟨r1, r2, r3, r4⟩ := refreshSlot_acc e.slot (monitorCall addr w old new) u
      rw [if_pos hit, h1, h2, h3, h4, r1, r2, r3, r4]
      simp only [List.mem_cons, exists_eq_or_imp, hit, true_and, monitorCall]
      exact ⟨one _ _ _ _ _, one _ _ _ _ _, one _ _ _ _ _, one _ _ _ _ _⟩
    · obtain ⟨h1, h2, h3, h4⟩ := ih u
      rw [if_neg hit, h1, h2, h3, h4]
      simp only [List.mem_cons, exists_eq_or_imp, hit, false_and, false_or, Bool.false_eq_true, and_self]

/-- A bus store changes the memory and the accumulators, nothing else. -/
theorem busStore_frame (addr : Addr) (w : Width) (v : Word) (s : State) :
    ∃ a0 a1, busStore addr w v s =
      { s with mem := s.mem.store addr.toNat w (writeMask s.mem addr.toNat v), acc0 := a0, acc1 := a1 } :=
  runMonitors_frame addr w _ _ _

/-- The bytes after a bus store: those of the value under WriteMask, every other as before (R407). -/
theorem busStore_mem (addr : Addr) (w : Width) (v : Word) (s : State) :
    (busStore addr w v s).mem = s.mem.store addr.toNat w (writeMask s.mem addr.toNat v) := by
  obtain ⟨a0, a1, h⟩ := busStore_frame addr w v s
  rw [h]

/-! ## The guards -/

/-- On a visible line the operation is done. -/
theorem onVisible_of_lt {k : State → State} {s : State} (h : s.line.toNat < 160) : onVisible k s = k s := by
  simp [onVisible, visible, h]

/-- On any other line it is not. -/
theorem onVisible_of_ge {k : State → State} {s : State} (h : 160 ≤ s.line.toNat) : onVisible k s = s := by
  simp [onVisible, visible, Nat.not_lt.mpr h]

/-- The Engine's move while it runs. -/
theorem engineStep_running {s : State} (h : s.running = true) : engineStep s = subStep s.phase s := by
  simp [engineStep, h]

/-- A stopped Engine takes no step (41_timing_engine.md R512). -/
theorem engineStep_stopped {s : State} (h : s.running = false) : engineStep s = s := by
  simp [engineStep, h]

/-! ## Whose move it is -/

/-- The head of the schedule goes first where its agent can move. -/
theorem nextMove_head {s : State} {e : Input} {rest : List Input} (hs : s.schedule = e :: rest)
    (h : canMove s e = true) : nextMove s = some (e, rest) := by
  simp [nextMove, hs, h]

/-- Behind entries of the Presenter stands the first entry of another agent. -/
theorem firstOther_append {ps rest : List Input} {e : Input} (hp : ∀ p ∈ ps, ofPresenter p = true)
    (he : ofPresenter e = false) : firstOther (ps ++ e :: rest) = some (e, ps ++ rest) := by
  induction ps with
  | nil => simp [firstOther, he]
  | cons p ps ih =>
    obtain ⟨h1, h2⟩ := List.forall_mem_cons.1 hp
    simp [firstOther, h1, ih h2]

/-- Entries of the Presenter alone hold no other agent's. -/
theorem firstOther_none {ps : List Input} (hp : ∀ p ∈ ps, ofPresenter p = true) : firstOther ps = none := by
  induction ps with
  | nil => rfl
  | cons p ps ih =>
    obtain ⟨h1, h2⟩ := List.forall_mem_cons.1 hp
    simp [firstOther, h1, ih h2]

/-- An entry that cannot move is the Presenter's. -/
theorem ofPresenter_of_blocked {s : State} {e : Input} (h : canMove s e = false) : ofPresenter e = true := by
  cases e <;> simp_all [canMove, ofPresenter]

/-- An entry of another agent can always move. -/
theorem canMove_other {s : State} {e : Input} (h : ofPresenter e = false) : canMove s e = true := by
  cases e <;> simp_all [canMove, ofPresenter]

/-- Everything the choice of a move can do: the entry can move, those before it are the Presenter's, and all others
stay. -/
theorem nextMove_cases {s : State} {e : Input} {rest : List Input} (h : nextMove s = some (e, rest)) :
    canMove s e = true ∧
      ∃ pre post, s.schedule = pre ++ e :: post ∧ rest = pre ++ post ∧ ∀ p ∈ pre, ofPresenter p = true := by
  have other : ∀ (l : List Input) (e : Input) (rest : List Input), firstOther l = some (e, rest) →
      ofPresenter e = false ∧ ∃ pre post, l = pre ++ e :: post ∧ rest = pre ++ post ∧ ∀ p ∈ pre, ofPresenter p = true := by
    intro l
    induction l with
    | nil => intro e rest h; simp [firstOther] at h
    | cons a l ih =>
      intro e rest h
      unfold firstOther at h
      split at h
      · rename_i ha
        obtain ⟨⟨e', r'⟩, hf, he⟩ := Option.map_eq_some_iff.1 h
        obtain ⟨rfl, rfl⟩ : e' = e ∧ a :: r' = rest := by simpa using he
        obtain ⟨hn, pre, post, rfl, rfl, hp⟩ := ih e' r' hf
        exact ⟨hn, a :: pre, post, rfl, rfl, by simpa [ha] using hp⟩
      · rename_i ha
        obtain ⟨rfl, rfl⟩ : a = e ∧ l = rest := by simpa using h
        exact ⟨by simpa using ha, [], l, rfl, rfl, by simp⟩
  unfold nextMove at h
  split at h
  · cases h
  · rename_i a l hs
    split at h
    · rename_i hc
      obtain ⟨rfl, rfl⟩ : a = e ∧ l = rest := by simpa using h
      exact ⟨hc, [], l, hs, rfl, by simp⟩
    · obtain ⟨hn, pre, post, hl, hr, hp⟩ := other _ _ _ h
      exact ⟨canMove_other hn, pre, post, by rw [hs, hl], hr, hp⟩

/-! ## Commands and steps -/

/-- Every operation has an effect: exec answers a next state. -/
theorem exec_next (i : Instr) (s : State) : ∃ t, exec i s = .next t := by
  cases i <;> exact ⟨_, rfl⟩

/-- A command of the script is performed. -/
theorem command_ok {bytes : List Byte} {i : Instr} {s : State} (h : decode bytes = .ok i) (hi : isScript i = true) :
    command bytes s = exec i s := by
  simp [command, h, hi]

/-- An operation on its own is performed. -/
theorem operation_ok {bytes : List Byte} {i : Instr} {s : State} (h : decode bytes = .ok i) (hi : isScript i = false) :
    operation bytes s = exec i s := by
  simp [operation, h, hi]

/-- Everything a command can do. -/
theorem command_cases (bytes : List Byte) (s : State) :
    (∃ i, decode bytes = .ok i ∧ isScript i = true ∧ command bytes s = exec i s) ∨ command bytes s = .next (refuse s) ∨
      ∃ cmd addr, command bytes s = .next (raiseStoreFault (.width addr cmd) s) := by
  cases hd : decode bytes with
  | ok i =>
    cases hi : isScript i
    · exact .inr (.inl (by simp [command, hd, hi]))
    · exact .inl ⟨i, rfl, hi, command_ok hd hi⟩
  | error e =>
    simp only [command, hd]
    cases e with
    | unsupportedWidth cmd addr => exact .inr (.inr ⟨cmd, addr, rfl⟩)
    | _ => exact .inr (.inl rfl)

/-- Everything an operation on its own can do. -/
theorem operation_cases (bytes : List Byte) (s : State) :
    (∃ i, decode bytes = .ok i ∧ isScript i = false ∧ operation bytes s = exec i s) ∨
      operation bytes s = .next (refuse s) := by
  cases hd : decode bytes with
  | ok i =>
    cases hi : isScript i
    · exact .inl ⟨i, rfl, hi, operation_ok hd hi⟩
    · exact .inr (by simp [operation, hd, hi])
  | error e => exact .inr (by simp [operation, hd])

/-- A step performs the chosen move. -/
theorem step_move {s : State} {e : Input} {rest : List Input} (h : nextMove s = some (e, rest)) :
    step s = performMove e { s with schedule := rest } := by
  simp [step, h]

/-- With no move to take the Engine moves. -/
theorem step_idle {s : State} (h : nextMove s = none) : step s = .next (engineStep s) := by
  simp [step, h]

/-- Everything a step can do. -/
theorem step_cases {s t : State} (h : step s = .next t) :
    (nextMove s = none ∧ t = engineStep s) ∨
      ∃ e rest, nextMove s = some (e, rest) ∧
        let u : State := { s with schedule := rest }
        (e = .engine ∧ t = engineStep u) ∨
          (e = .presenterWait ∧ s.consumed < s.framesReady ∧ t = presenterWait u) ∨
          (∃ y x, e = .presenterRead y x ∧ 0 < s.consumed ∧ t = presenterRead y x u) ∨
          (∃ bytes i, e = .command bytes ∧ decode bytes = .ok i ∧ isScript i = true ∧ exec i u = .next t) ∨
          (∃ bytes i, e = .operation bytes ∧ decode bytes = .ok i ∧ isScript i = false ∧ exec i u = .next t) ∨
          (∃ bytes, (e = .command bytes ∨ e = .operation bytes) ∧ t = refuse u) ∨
          ∃ bytes cmd addr, e = .command bytes ∧ t = raiseStoreFault (.width addr cmd) u := by
  cases hm : nextMove s with
  | none =>
    rw [step_idle hm] at h
    exact .inl ⟨rfl, by simpa using h.symm⟩
  | some p =>
    obtain ⟨e, rest⟩ := p
    rw [step_move hm] at h
    have hc := (nextMove_cases hm).1
    refine .inr ⟨e, rest, rfl, ?_⟩
    cases e with
    | command bytes =>
      rcases command_cases bytes { s with schedule := rest } with ⟨i, hd, hi, hx⟩ | hx | ⟨cmd, addr, hx⟩
      · exact .inr (.inr (.inr (.inl ⟨bytes, i, rfl, hd, hi, hx.symm.trans h⟩)))
      · have ht := hx.symm.trans h
        exact .inr (.inr (.inr (.inr (.inr (.inl ⟨bytes, .inl rfl, by simpa using ht.symm⟩)))))
      · have ht := hx.symm.trans h
        exact .inr (.inr (.inr (.inr (.inr (.inr ⟨bytes, cmd, addr, rfl, by simpa using ht.symm⟩)))))
    | operation bytes =>
      rcases operation_cases bytes { s with schedule := rest } with ⟨i, hd, hi, hx⟩ | hx
      · exact .inr (.inr (.inr (.inr (.inl ⟨bytes, i, rfl, hd, hi, hx.symm.trans h⟩))))
      · have ht := hx.symm.trans h
        exact .inr (.inr (.inr (.inr (.inr (.inl ⟨bytes, .inr rfl, by simpa using ht.symm⟩)))))
    | engine => exact .inl ⟨rfl, by simpa [performMove] using h.symm⟩
    | presenterWait => exact .inr (.inl ⟨rfl, by simpa [canMove] using hc, by simpa [performMove] using h.symm⟩)
    | presenterRead y x =>
      exact .inr (.inr (.inl ⟨y, x, rfl, by simpa [canMove] using hc, by simpa [performMove] using h.symm⟩))

/-- The machine never stops: a step always answers a next state. -/
theorem step_next (s : State) : ∃ t, step s = .next t := by
  cases hm : nextMove s with
  | none => exact ⟨_, step_idle hm⟩
  | some p =>
    rw [step_move hm]
    cases p.1 with
    | command bytes =>
      rcases command_cases bytes { s with schedule := p.2 } with ⟨i, -, -, hx⟩ | hx | ⟨_, _, hx⟩
      · exact (exec_next i _).imp fun _ h => hx.trans h
      · exact ⟨_, hx⟩
      · exact ⟨_, hx⟩
    | operation bytes =>
      rcases operation_cases bytes { s with schedule := p.2 } with ⟨i, -, -, hx⟩ | hx
      · exact (exec_next i _).imp fun _ h => hx.trans h
      · exact ⟨_, hx⟩
    | engine => exact ⟨_, rfl⟩
    | presenterWait => exact ⟨_, rfl⟩
    | presenterRead y x => exact ⟨_, rfl⟩

end Sys2Proof.Machine
end

