-- ==== Sys2Proof/Laws/Flags.lean ====
section
/-! SUPPORT. DISPSTAT as a byte: the bits of the status word, and everything the Engine's compare-and-set of it does. -/

namespace Sys2Proof.Machine

/-- The bytes of the status word (41_timing_engine.md R514). -/
theorem statusWord_eq (m : Memory) :
    statusWord m = word4 (m.read 0x04000007) (m.read 0x04000006) (m.read 0x04000005) (m.read 0x04000004) := rfl

/-- A low bit of the status word is a bit of the byte at 0x04000004. -/
theorem statusWord_bit (m : Memory) (b : Nat) (h : b < 8) :
    (statusWord m).getLsbD b = (m.read 0x04000004).getLsbD b := by
  simp only [statusWord_eq, word4, BitVec.getLsbD_append, h, if_true]

/-- LYC is the byte at 0x04000005 (10_state.md R112). -/
theorem lycOf_statusWord (m : Memory) : lycOf (statusWord m) = m.read 0x04000005 := by
  simp [lycOf, statusWord_eq]

/-- Byte 0 of a status word with new flags. -/
theorem byteOf_withFlags_zero (w : Word) (v h c : Bool) :
    byteOf (withFlags w v h c) 0 =
      (byteOf w 0 &&& 0xF8#8) ||| (0#5 ++ BitVec.ofBool c ++ BitVec.ofBool h ++ BitVec.ofBool v) := by
  apply BitVec.eq_of_getLsbD_eq
  intro i hi
  simp only [byteOf, withFlags, BitVec.getLsbD_extractLsb', BitVec.getLsbD_or, BitVec.getLsbD_and, BitVec.getLsbD_append]
  interval_cases i <;> cases v <;> cases h <;> cases c <;> simp

/-- The other bytes keep their values. -/
theorem byteOf_withFlags_succ (w : Word) (v h c : Bool) (k : Nat) (hk : k = 1 ∨ k = 2 ∨ k = 3) :
    byteOf (withFlags w v h c) k = byteOf w k := by
  apply BitVec.eq_of_getLsbD_eq
  intro i hi
  rcases hk with rfl | rfl | rfl <;>
    simp only [byteOf, withFlags, BitVec.getLsbD_extractLsb', BitVec.getLsbD_or, BitVec.getLsbD_and,
      BitVec.getLsbD_append] <;>
    interval_cases i <;> simp

/-- The compare-and-set of the flags leaves every other byte alone. -/
theorem statusCas_read_other (v h c : Bool) {s : State} (hm : s.mem.wf) {x : Nat} (hx : x ≠ 0x04000004) :
    (statusCas v h c s).mem.read x = s.mem.read x := by
  simp only [statusCas_mem]
  by_cases h1 : x < 0x04000004 ∨ 0x04000008 ≤ x
  · exact Memory.read_store_other _ _ _ _ _ (by simpa [widthBytes] using h1)
  · have h3 : x = 0x04000004 + 1 ∨ x = 0x04000004 + 2 ∨ x = 0x04000004 + 3 := by omega
    rcases h3 with rfl | rfl | rfl
    all_goals
      rw [Memory.read_store_same _ _ _ _ _ hm (by simp [widthBytes]), byteOf_withFlags_succ _ _ _ _ _ (by simp),
        statusWord_eq]
      simp

/-- It writes the three flags and leaves the five other bits of their byte alone. -/
theorem statusCas_bit (v h c : Bool) {s : State} (hm : s.mem.wf) (b : Nat) :
    ((statusCas v h c s).mem.read 0x04000004).getLsbD b =
      if b = 0 then v else if b = 1 then h else if b = 2 then c else (s.mem.read 0x04000004).getLsbD b := by
  have e : (statusCas v h c s).mem.read 0x04000004 =
      (s.mem.read 0x04000004 &&& 0xF8#8) ||| (0#5 ++ BitVec.ofBool c ++ BitVec.ofBool h ++ BitVec.ofBool v) := by
    have hs := Memory.read_store_same s.mem 0x04000004 0 .word (withFlags (statusWord s.mem) v h c) hm
      (by simp [widthBytes])
    rw [Nat.add_zero] at hs
    rw [statusCas_mem, hs, byteOf_withFlags_zero, statusWord_eq]; simp
  rw [e]
  by_cases hb : b < 8
  · simp only [BitVec.getLsbD_or, BitVec.getLsbD_and, BitVec.getLsbD_append]
    interval_cases b <;> cases v <;> cases h <;> cases c <;> simp
  · rw [BitVec.getLsbD_of_ge _ _ (by omega), if_neg (by omega), if_neg (by omega), if_neg (by omega),
      BitVec.getLsbD_of_ge _ _ (by omega)]

/-- It keeps the memory canonical and inside the windows. -/
theorem statusCas_memOk (v h c : Bool) {s : State} (hm : s.memOk) : (statusCas v h c s).memOk := by
  unfold State.memOk
  rw [statusCas_mem]
  refine ⟨Memory.store_wf _ _ _ hm.1, fun d hd => ?_⟩
  rcases Memory.mem_store hd with h1 | h1
  · rw [inWindow_iff]
    simp only [widthBytes] at h1
    omega
  · exact hm.2 d h1

end Sys2Proof.Machine
end

