-- ==== Sys2Proof/Laws/PerInstr.lean ====
section
/-! SUPPORT. The statement made of every operation, and one lemma for each: the round trip through its encoding. -/

namespace Sys2Proof.Laws.RoundTrip

/-- The decoder reads a well-formed operation back from its encoding, every operand with it. -/
def Statement (i : Instr) : Prop := WellFormed i → decode (encode i) = .ok i

/-- The frame bit of a bitmap. -/
theorem frame_cases : ∀ f : BitVec 1, f = 0#1 ∨ f = 1#1 := by decide

/-- The selecting bits of a DISPCNT word that matches a mode row. -/
theorem mode_bits (d m : Half) (hm : m.getLsbD 7 = false) (h : Instr.modeOk d m = true) :
    d[7] = false ∧ d.extractLsb' 0 3 = m.extractLsb' 0 3 := by
  have e : d &&& 0x0087#16 = m := by simpa [Instr.modeOk] using h
  subst e
  constructor
  · simpa using hm
  · apply BitVec.eq_of_getLsbD_eq
    intro i hi
    rcases (by omega : i = 0 ∨ i = 1 ∨ i = 2) with rfl | rfl | rfl <;> simp

/-- The selecting bits of a BLDCNT word that matches an effect row, and the column. -/
theorem effect_bits (bld : Half) (x : Byte) (m : Half)
    (h : ((bld &&& 0x00C0#16) == m && Instr.colOk x) = true) :
    bld.extractLsb' 6 2 = m.extractLsb' 6 2 ∧ x.toNat < 240 := by
  have h' : bld &&& 0x00C0#16 = m ∧ x.toNat < 240 := by simpa [Instr.colOk] using h
  obtain ⟨e, hx⟩ := h'
  subst e
  refine ⟨?_, hx⟩
  apply BitVec.eq_of_getLsbD_eq
  intro i hi
  rcases (by omega : i = 0 ∨ i = 1) with rfl | rfl <;> simp

theorem rd8 addr : Statement (.rd8 addr) := by
  intro _
  simp [decode_encode, encodeFrame, busFrame, decodeFrame, decodeAs, decodeCommand]

theorem rd16 addr : Statement (.rd16 addr) := by
  intro _
  simp [decode_encode, encodeFrame, busFrame, decodeFrame, decodeAs, decodeCommand]

theorem rd32 addr : Statement (.rd32 addr) := by
  intro _
  simp [decode_encode, encodeFrame, busFrame, decodeFrame, decodeAs, decodeCommand]

theorem wr8 addr data : Statement (.wr8 addr data) := by
  intro _
  simp [decode_encode, encodeFrame, busFrame, decodeFrame, decodeAs, decodeCommand]

theorem wr16 addr data : Statement (.wr16 addr data) := by
  intro _
  simp [decode_encode, encodeFrame, busFrame, decodeFrame, decodeAs, decodeCommand]

theorem wr32 addr data : Statement (.wr32 addr data) := by
  intro _
  simp [decode_encode, encodeFrame, busFrame, decodeFrame, decodeAs, decodeCommand]

theorem cas32 addr expected update : Statement (.cas32 addr expected update) := by
  intro _
  simp [decode_encode, encodeFrame, busFrame, decodeFrame, decodeAs, decodeCommand]

theorem addmon slot base len : Statement (.addmon slot base len) := by
  intro _
  simp [decode_encode, encodeFrame, decodeFrame, decodeAs]

theorem lineVisible : Statement (.lineVisible) := by
  intro _
  decide

theorem lineVblankEntry : Statement (.lineVblankEntry) := by
  intro _
  decide

theorem lineVblank : Statement (.lineVblank) := by
  intro _
  decide

theorem line : Statement (.line) := by
  intro _
  simp [decode_encode, encodeFrame, busFrame, decodeFrame, decodeAs, decodeCommand]

theorem stop : Statement (.stop) := by
  intro _
  simp [decode_encode, encodeFrame, busFrame, decodeFrame, decodeAs, decodeCommand]

theorem mode0 d : Statement (.mode0 d) := by
  intro h
  obtain ⟨h7, h3⟩ := mode_bits d _ (by decide) h
  simp [decode_encode, encodeFrame, bareFrame, decodeFrame, decodeAs, decodeMode, h7, h3]

theorem mode1 d : Statement (.mode1 d) := by
  intro h
  obtain ⟨h7, h3⟩ := mode_bits d _ (by decide) h
  simp [decode_encode, encodeFrame, bareFrame, decodeFrame, decodeAs, decodeMode, h7, h3]

theorem mode2 d : Statement (.mode2 d) := by
  intro h
  obtain ⟨h7, h3⟩ := mode_bits d _ (by decide) h
  simp [decode_encode, encodeFrame, bareFrame, decodeFrame, decodeAs, decodeMode, h7, h3]

theorem mode3 d : Statement (.mode3 d) := by
  intro h
  obtain ⟨h7, h3⟩ := mode_bits d _ (by decide) h
  simp [decode_encode, encodeFrame, bareFrame, decodeFrame, decodeAs, decodeMode, h7, h3]

theorem mode4 d : Statement (.mode4 d) := by
  intro h
  obtain ⟨h7, h3⟩ := mode_bits d _ (by decide) h
  simp [decode_encode, encodeFrame, bareFrame, decodeFrame, decodeAs, decodeMode, h7, h3]

theorem mode5 d : Statement (.mode5 d) := by
  intro h
  obtain ⟨h7, h3⟩ := mode_bits d _ (by decide) h
  simp [decode_encode, encodeFrame, bareFrame, decodeFrame, decodeAs, decodeMode, h7, h3]

theorem fblankMode6 d : Statement (.fblankMode6 d) := by
  intro h
  obtain ⟨h7, h3⟩ := mode_bits d _ (by decide) h
  simp [decode_encode, encodeFrame, bareFrame, decodeFrame, decodeAs, decodeMode, h7, h3]

theorem mode7 d : Statement (.mode7 d) := by
  intro h
  obtain ⟨h7, h3⟩ := mode_bits d _ (by decide) h
  simp [decode_encode, encodeFrame, bareFrame, decodeFrame, decodeAs, decodeMode, h7, h3]

theorem fblankBit d : Statement (.fblankBit d) := by
  intro h
  have h7 : d[7] = true := by simpa [WellFormed, Instr.wellFormed] using h
  simp [decode_encode, encodeFrame, bareFrame, decodeFrame, decodeAs, decodeMode, h7]

theorem objMap2d tile deep tx ty : Statement (.objMap2d tile deep tx ty) := by
  intro _
  cases deep <;> simp [decode_encode, encodeFrame, decodeFrame, decodeAs, decodeObjMap]

theorem objMap1d tile w deep tx ty : Statement (.objMap1d tile w deep tx ty) := by
  intro _
  cases deep <;> simp [decode_encode, encodeFrame, decodeFrame, decodeAs, decodeObjMap]

theorem bgText4bpp n cnt : Statement (.bgText4bpp n cnt) := by
  intro h
  have h7 := h
  simp [WellFormed, Instr.wellFormed] at h7
  simp [decode_encode, encodeFrame, decodeFrame, decodeAs, decodeText, h7]

theorem bgText8bpp n cnt : Statement (.bgText8bpp n cnt) := by
  intro h
  have h7 := h
  simp [WellFormed, Instr.wellFormed] at h7
  simp [decode_encode, encodeFrame, decodeFrame, decodeAs, decodeText, h7]

theorem bgAffineClip slot cnt : Statement (.bgAffineClip slot cnt) := by
  intro h
  have h13 := h
  simp [WellFormed, Instr.wellFormed] at h13
  simp [decode_encode, encodeFrame, decodeFrame, decodeAs, decodeAffine, h13]

theorem bgAffineWrap slot cnt : Statement (.bgAffineWrap slot cnt) := by
  intro h
  have h13 := h
  simp [WellFormed, Instr.wellFormed] at h13
  simp [decode_encode, encodeFrame, decodeFrame, decodeAs, decodeAffine, h13]

theorem objRegular a1 w h bx ry : Statement (.objRegular a1 w h bx ry) := by
  intro _
  simp [decode_encode, encodeFrame, decodeFrame, decodeAs, decodeObjKind]

theorem objAffine a1 w h bx ry : Statement (.objAffine a1 w h bx ry) := by
  intro _
  simp [decode_encode, encodeFrame, decodeFrame, decodeAs, decodeObjKind]

theorem objHidden : Statement (.objHidden) := by
  intro _
  decide

theorem objAffineDouble a1 w h bx ry : Statement (.objAffineDouble a1 w h bx ry) := by
  intro _
  simp [decode_encode, encodeFrame, decodeFrame, decodeAs, decodeObjKind]

theorem objModeNormal x prio c : Statement (.objModeNormal x prio c) := by
  intro _
  simp [decode_encode, encodeFrame, decodeFrame, decodeAs, shownRecord, decodeObjMode]

theorem objModeSemi x prio c : Statement (.objModeSemi x prio c) := by
  intro _
  simp [decode_encode, encodeFrame, decodeFrame, decodeAs, shownRecord, decodeObjMode]

theorem objModeWindow x prio c : Statement (.objModeWindow x prio c) := by
  intro _
  simp [decode_encode, encodeFrame, decodeFrame, decodeAs, shownRecord, decodeObjMode]

theorem objModeProhibited : Statement (.objModeProhibited) := by
  intro _
  decide

theorem obj4bpp a2 w tx ty : Statement (.obj4bpp a2 w tx ty) := by
  intro _
  simp [decode_encode, encodeFrame, decodeFrame, decodeAs, shownRecord, decodeObjDepth]

theorem obj8bpp a2 w tx ty : Statement (.obj8bpp a2 w tx ty) := by
  intro _
  simp [decode_encode, encodeFrame, decodeFrame, decodeAs, shownRecord, decodeObjDepth]

theorem objShapeSquare size : Statement (.objShapeSquare size) := by
  intro _
  simp [decode_encode, encodeFrame, decodeFrame, decodeAs, shownRecord, decodeObjShape]

theorem objShapeHorizontal size : Statement (.objShapeHorizontal size) := by
  intro _
  simp [decode_encode, encodeFrame, decodeFrame, decodeAs, shownRecord, decodeObjShape]

theorem objShapeVertical size : Statement (.objShapeVertical size) := by
  intro _
  simp [decode_encode, encodeFrame, decodeFrame, decodeAs, shownRecord, decodeObjShape]

theorem objShapeProhibited : Statement (.objShapeProhibited) := by
  intro _
  decide

theorem bitmap3 ix iy : Statement (.bitmap3 ix iy) := by
  intro _
  simp [decode_encode, encodeFrame, decodeFrame, decodeAs, decodeBitmap]

theorem bitmap4 frame ix iy : Statement (.bitmap4 frame ix iy) := by
  intro _
  obtain rfl | rfl := frame_cases frame <;>
    simp [decode_encode, encodeFrame, decodeFrame, decodeAs, decodeBitmap]

theorem bitmap5 frame ix iy : Statement (.bitmap5 frame ix iy) := by
  intro _
  obtain rfl | rfl := frame_cases frame <;>
    simp [decode_encode, encodeFrame, decodeFrame, decodeAs, decodeBitmap]

theorem effNone bld x : Statement (.effNone bld x) := by
  intro h
  obtain ⟨hb, hx⟩ := effect_bits bld x _ h
  simp [decode_encode, encodeFrame, decodeFrame, decodeAs, decodeEffect, onColumn, hb, hx]

theorem effAlpha bld x : Statement (.effAlpha bld x) := by
  intro h
  obtain ⟨hb, hx⟩ := effect_bits bld x _ h
  simp [decode_encode, encodeFrame, decodeFrame, decodeAs, decodeEffect, onColumn, hb, hx]

theorem effBrighten bld x : Statement (.effBrighten bld x) := by
  intro h
  obtain ⟨hb, hx⟩ := effect_bits bld x _ h
  simp [decode_encode, encodeFrame, decodeFrame, decodeAs, decodeEffect, onColumn, hb, hx]

theorem effDarken bld x : Statement (.effDarken bld x) := by
  intro h
  obtain ⟨hb, hx⟩ := effect_bits bld x _ h
  simp [decode_encode, encodeFrame, decodeFrame, decodeAs, decodeEffect, onColumn, hb, hx]

theorem effForcedAlpha x : Statement (.effForcedAlpha x) := by
  intro h
  have hx : x.toNat < 240 := by simpa [WellFormed, Instr.wellFormed, Instr.colOk] using h
  simp [decode_encode, encodeFrame, decodeFrame, decodeAs, decodePixel, onColumn, hx]

theorem winNone x : Statement (.winNone x) := by
  intro h
  have hx : x.toNat < 240 := by simpa [WellFormed, Instr.wellFormed, Instr.colOk] using h
  simp [decode_encode, encodeFrame, decodeFrame, decodeAs, decodePixel, onColumn, hx]

theorem win0 x : Statement (.win0 x) := by
  intro h
  have hx : x.toNat < 240 := by simpa [WellFormed, Instr.wellFormed, Instr.colOk] using h
  simp [decode_encode, encodeFrame, decodeFrame, decodeAs, decodePixel, onColumn, hx]

theorem win1 x : Statement (.win1 x) := by
  intro h
  have hx : x.toNat < 240 := by simpa [WellFormed, Instr.wellFormed, Instr.colOk] using h
  simp [decode_encode, encodeFrame, decodeFrame, decodeAs, decodePixel, onColumn, hx]

theorem winObj x : Statement (.winObj x) := by
  intro h
  have hx : x.toNat < 240 := by simpa [WellFormed, Instr.wellFormed, Instr.colOk] using h
  simp [decode_encode, encodeFrame, decodeFrame, decodeAs, decodePixel, onColumn, hx]

theorem winOut x : Statement (.winOut x) := by
  intro h
  have hx : x.toNat < 240 := by simpa [WellFormed, Instr.wellFormed, Instr.colOk] using h
  simp [decode_encode, encodeFrame, decodeFrame, decodeAs, decodePixel, onColumn, hx]

end Sys2Proof.Laws.RoundTrip
end

