-- ==== Sys2Proof/Laws/Render.lean ====
section
/-! SUPPORT. What the row operations of a line can change: the line buffers, the frame buffer and the counter of draws; and
what no move of the Engine touches: the monitors and the schedule. -/

namespace Sys2Proof.Machine

/-- A state that differs from `s` in its line buffers, its frame buffer and its counter of draws only. -/
def RowOnly (s t : State) : Prop :=
  t = { s with
    lb0 := t.lb0, lb1 := t.lb1, lb2 := t.lb2, lb3 := t.lb3, lb4 := t.lb4, lb5 := t.lb5, fb := t.fb, draws := t.draws }

/-- A forced blank (42_backgrounds.md R608). -/
theorem whiteRow_frame (s : State) : RowOnly s (whiteRow s) := rfl

/-- A row of draws (R609, 43_sprites.md R714). -/
theorem undefinedRow_frame (s : State) : RowOnly s (undefinedRow s) := by
  unfold undefinedRow onVisible
  split <;> rfl

/-- A mode 0 to 5 (R600, R602 to R607). -/
theorem modeRow_frame (m : Memory) (d : Half) (l : Nat) (ks : LayerKinds) (s : State) :
    RowOnly s (modeRow m d l ks s) := by
  unfold modeRow
  dsimp only
  split <;> rfl

/-- The operation that DISPCNT selects (R601). -/
theorem effectiveRow_frame (d : Half) (s : State) : RowOnly s (effectiveRow d s) := by
  unfold effectiveRow
  split
  · exact whiteRow_frame s
  · split
    · exact modeRow_frame _ _ _ _ s
    · exact modeRow_frame _ _ _ _ s
    · exact modeRow_frame _ _ _ _ s
    · exact modeRow_frame _ _ _ _ s
    · exact modeRow_frame _ _ _ _ s
    · exact modeRow_frame _ _ _ _ s
    · exact whiteRow_frame s
    · exact undefinedRow_frame s

/-- A state with the monitors and the schedule of `s`. -/
def BusSideKept (s t : State) : Prop := t.monitors = s.monitors ∧ t.schedule = s.schedule

/-- A conditional trace entry. -/
theorem emitIf_busSide (c : Bool) (e : Event) (s : State) : BusSideKept s (emitIf c e s) := by
  unfold emitIf
  split <;> exact ⟨rfl, rfl⟩

/-- A sub-step (41_timing_engine.md R500). -/
theorem subStep_busSide (p : Phase) (s : State) : BusSideKept s (subStep p s) := by
  cases p
  case s2 => exact emitIf_busSide _ _ _
  case s6 => exact emitIf_busSide _ _ _
  case s3 =>
    show BusSideKept s (onVisible renderLine s)
    unfold onVisible
    split
    · unfold renderLine
      rw [effectiveRow_frame (reg16 (snapshot s) 0x000) s]
      exact ⟨rfl, rfl⟩
    · exact ⟨rfl, rfl⟩
  case s4 =>
    show BusSideKept s (subS4 s)
    unfold subS4
    split
    · exact emitIf_busSide _ _ _
    · exact ⟨rfl, rfl⟩
  case s9 =>
    show BusSideKept s (subS9 s)
    unfold subS9
    split <;> exact ⟨rfl, rfl⟩
  all_goals exact ⟨rfl, rfl⟩

/-- A move of the Engine. -/
theorem engineStep_busSide (s : State) : BusSideKept s (engineStep s) := by
  unfold engineStep
  split
  · exact subStep_busSide _ s
  · exact ⟨rfl, rfl⟩

/-- A line step (30_encoding.md R340). -/
theorem lineStep_busSide (s : State) : BusSideKept s (lineStep s) := by
  have all : ∀ (ps : List Phase) (u : State), BusSideKept u (ps.foldl (fun t p => subStep p t) u) := by
    intro ps
    induction ps with
    | nil => exact fun u => ⟨rfl, rfl⟩
    | cons p ps ih =>
      intro u
      have h := ih (subStep p u)
      have k := subStep_busSide p u
      exact ⟨h.1.trans k.1, h.2.trans k.2⟩
  unfold lineStep
  split
  · exact all _ s
  · exact ⟨rfl, rfl⟩

end Sys2Proof.Machine
end

