-- ==== Sys2Proof/Laws/Shapes.lean ====
section
/-! SUPPORT. The shapes of the buffers: every pixel rule gives a colour of its buffer, and every row operation keeps the
shapes of 10_state.md R131 to R133. -/

namespace Sys2Proof.Machine

/-! ## The pixel rules -/

/-- A palette colour is opaque (42_backgrounds.md R629). -/
theorem palColour_opaque (m : Memory) (i : Nat) : opaqueColour (palColour m i) := opaque_mask _

/-- A palette index gives a layer colour. -/
theorem indexColour_layer (m : Memory) (i j : Nat) : layerColour (indexColour m i j) := by
  unfold indexColour
  split
  · exact .inl rfl
  · exact .inr (palColour_opaque m j)

/-- The pixel of any layer kind is a layer colour (R613 to R627). -/
theorem layerPixel_layer (m : Memory) (a0 a1 : Acc) (g : Nat × Nat) (d : Half) (n : Nat) (k : LayerKind) (l base x : Nat) :
    layerColour (layerPixel m a0 a1 g d n k l base x) := by
  cases k with
  | off => exact .inl rfl
  | text4 => exact indexColour_layer _ _ _
  | text8 => exact indexColour_layer _ _ _
  | affineClip =>
    simp only [layerPixel, affinePixelClip]
    split
    · exact indexColour_layer _ _ _
    · exact .inl rfl
  | affineWrap => exact indexColour_layer _ _ _
  | bitmap b =>
    simp only [layerPixel, bitmapLayerPixel]
    split
    · cases b
      · exact .inr (opaque_mask _)
      · exact indexColour_layer _ _ _
      · exact .inr (opaque_mask _)
    · exact .inl rfl

/-! ## Rows -/

/-- A row of layer colours. -/
theorem colourRow_columns {f : Nat → Half} (h : ∀ x, layerColour (f x)) : colourRow (columns f) := by
  refine ⟨by simp [columns], fun c hc => ?_⟩
  simp only [columns, List.mem_map] at hc
  obtain ⟨x, _, rfl⟩ := hc
  exact h x

/-- A row of pixels. -/
theorem pixelRow_columns {f : Nat → Half} (h : ∀ x, opaqueColour (f x)) : pixelRow (columns f) := by
  refine ⟨by simp [columns], fun c hc => ?_⟩
  simp only [columns, List.mem_map] at hc
  obtain ⟨x, _, rfl⟩ := hc
  exact h x

/-- A layer render fills a line buffer with layer colours (42_backgrounds.md R610). -/
theorem renderLayer_row (m : Memory) (a0 a1 : Acc) (g : Nat × Nat) (d : Half) (n : Nat) (k : LayerKind) (l base : Nat) :
    colourRow (renderLayer m a0 a1 g d n k l base) := by
  refine colourRow_columns fun x => ?_
  split
  · exact layerPixel_layer _ _ _ _ _ _ _ _ _ _
  · exact .inl rfl

/-- A row of draws is a row of pixels. -/
theorem drawRow_row (base : Nat) : pixelRow (drawRow base) := pixelRow_columns fun _ => opaque_mask _

/-- The white row of a forced blank (R608). -/
theorem white_row : pixelRow (List.replicate 240 0x7FFF#16) := by
  refine ⟨List.length_replicate, fun c hc => ?_⟩
  rw [(List.mem_replicate.1 hc).2]; rfl

/-- Replacing an entry of a row keeps what holds of all its entries. -/
theorem mem_set_of {α : Type} {p : α → Prop} {l : List α} {x : Nat} {a : α} (hl : ∀ c ∈ l, p c) (ha : p a) :
    ∀ c ∈ l.set x a, p c := by
  intro c hc
  rcases List.mem_or_eq_of_mem_set hc with h | rfl
  · exact hl c h
  · exact ha

/-! ## The sprite pass -/

/-- A column of the sprite buffers has a layer colour and a proper info entry (10_state.md R132). -/
def cellOk (c : SpriteCell) : Prop := layerColour c.1 ∧ infoOk c.2

/-- `WritePixel` keeps it (43_sprites.md R712). -/
theorem writePixel_ok {prio mode : BitVec 2} {c : Half} {cell : SpriteCell} (hc : opaqueColour c) (h : cellOk cell) :
    cellOk (writePixel prio mode c cell) := by
  unfold writePixel
  split
  · refine ⟨?_, rfl⟩
    dsimp only
    split
    · exact h.1
    · exact .inr hc
  · exact h

/-- A record keeps it (R702). -/
theorem recordColumn_ok (m : Memory) (d : Half) (l i x : Nat) {cell : SpriteCell} (h : cellOk cell) :
    cellOk (recordColumn m d l i x cell) := by
  unfold recordColumn
  dsimp only
  split
  · exact h
  · split
    · exact h
    · split
      · split
        · split
          all_goals
            split
            · exact h
            · exact writePixel_ok (palColour_opaque _ _) h
        · exact h
      · exact h

/-- The sprite pass gives 240 proper columns (R700, R701). -/
theorem spritePass_ok (m : Memory) (d : Half) (l : Nat) :
    (spritePass m d l).cells.length = 240 ∧ ∀ c ∈ (spritePass m d l).cells, cellOk c := by
  have init : ∀ c ∈ List.replicate 240 spriteInit, cellOk c := by
    intro c hc
    rw [(List.mem_replicate.1 hc).2]
    exact ⟨.inl rfl, rfl⟩
  have pass : ∀ (rs : List Nat) (cs : List SpriteCell), (∀ c ∈ cs, cellOk c) →
      (rs.foldl (fun cs i => spriteRecord m d l i cs) cs).length = cs.length ∧
        ∀ c ∈ rs.foldl (fun cs i => spriteRecord m d l i cs) cs, cellOk c := by
    intro rs
    induction rs with
    | nil => exact fun cs h => ⟨rfl, h⟩
    | cons r rest ih =>
      intro cs h
      have hr : ∀ c ∈ spriteRecord m d l r cs, cellOk c := by
        intro c hc
        simp only [spriteRecord, List.mem_map] at hc
        obtain ⟨p, hp, rfl⟩ := hc
        exact recordColumn_ok _ _ _ _ _ (h _ (List.fst_mem_of_mem_zipIdx hp))
      have hl : (spriteRecord m d l r cs).length = cs.length := by simp [spriteRecord]
      rw [List.foldl_cons, ← hl]
      exact ih _ hr
  unfold spritePass
  dsimp only
  split
  · exact ⟨List.length_replicate, init⟩
  · split
    · exact ⟨List.length_replicate, init⟩
    · have h := pass (List.range 128).reverse _ init
      dsimp only
      exact ⟨by rw [h.1]; exact List.length_replicate, h.2⟩

/-! ## The compositor -/

/-- A column of layer colours. -/
def columnOk (q : LineColumn) : Prop :=
  layerColour q.c0 ∧ layerColour q.c1 ∧ layerColour q.c2 ∧ layerColour q.c3 ∧ layerColour q.c4

/-- Offering a layer pixel keeps both candidates opaque (44_compositor.md R806). -/
theorem offerLayer_opaque {mask : BitVec 5} {k : Candidate} {cs : Candidates} (hk : layerColour k.c)
    (h : opaqueColour cs.first.c ∧ opaqueColour cs.second.c) :
    opaqueColour (offerLayer mask k cs).first.c ∧ opaqueColour (offerLayer mask k cs).second.c := by
  unfold offerLayer
  split
  · rename_i hs
    have hkc : opaqueColour k.c := hk.resolve_left fun e => by simp [e] at hs
    unfold offer
    split
    · exact ⟨hkc, h.1⟩
    · split
      · exact ⟨h.1, hkc⟩
      · exact h
  · exact h

/-- Both candidates of a column are opaque (R806, R807). -/
theorem candidates_opaque (m : Memory) (mask : BitVec 5) {q : LineColumn} (h : columnOk q) :
    opaqueColour (candidates m mask q).first.c ∧ opaqueColour (candidates m mask q).second.c := by
  obtain ⟨h0, h1, h2, h3, h4⟩ := h
  have seed : opaqueColour (backdrop m).c ∧ opaqueColour (backdrop m).c := ⟨palColour_opaque m 0, palColour_opaque m 0⟩
  exact offerLayer_opaque h4 (offerLayer_opaque h0 (offerLayer_opaque h1 (offerLayer_opaque h2 (offerLayer_opaque h3 seed))))

/-- A blend is opaque (R810, R814). -/
theorem alpha_opaque (eva evb : Nat) (t b : Half) : opaqueColour (alpha eva evb t b) :=
  (rgb_channels _ _ _ (by unfold alphaChannel; omega) (by unfold alphaChannel; omega)
    (by unfold alphaChannel; omega)).2.2.2

/-- A brightened channel stays below 32 (R811). -/
theorem brightenChannel_lt {evy c : Nat} (he : evy ≤ 16) (hc : c < 32) : brightenChannel evy c < 32 := by
  have := Nat.mul_le_mul_left (31 - c) he
  unfold brightenChannel; omega

/-- A brightened colour is opaque (R811, R814). -/
theorem brighten_opaque {evy : Nat} (h : evy ≤ 16) (c : Half) : opaqueColour (brighten evy c) := by
  obtain ⟨hr, hg, hb⟩ := channel_lt c
  exact (rgb_channels _ _ _ (brightenChannel_lt h hr) (brightenChannel_lt h hg) (brightenChannel_lt h hb)).2.2.2

/-- A darkened colour is opaque (R812, R814). -/
theorem darken_opaque (evy : Nat) (c : Half) : opaqueColour (darken evy c) := by
  obtain ⟨hr, hg, hb⟩ := channel_lt c
  exact (rgb_channels _ _ _ (by unfold darkenChannel; omega) (by unfold darkenChannel; omega)
    (by unfold darkenChannel; omega)).2.2.2

/-- The colours of the four effects are opaque. -/
theorem effectColours_opaque (m : Memory) (bld : Half) {cs : Candidates} (h : opaqueColour cs.first.c) :
    opaqueColour (noneColour cs) ∧ opaqueColour (alphaColour m bld cs) ∧ opaqueColour (brightenColour m bld cs) ∧
      opaqueColour (darkenColour m bld cs) := by
  refine ⟨h, ?_, ?_, ?_⟩
  · unfold alphaColour; split
    · exact alpha_opaque _ _ _ _
    · exact h
  · unfold brightenColour; split
    · exact brighten_opaque (coefficient_le _ _) _
    · exact h
  · unfold darkenColour; split
    · exact darken_opaque _ _
    · exact h

/-- The two earlier arms of `ApplyEffect` keep an opaque colour opaque (R809). -/
theorem effectOr_opaque (m : Memory) (fx : Bool) (info : Info) {cs : Candidates} {c : Half} (h : opaqueColour cs.first.c)
    (hc : opaqueColour c) : opaqueColour (effectOr m fx info cs c) := by
  unfold effectOr
  split
  · exact h
  · split
    · exact alpha_opaque _ _ _ _
    · exact hc

/-- A composed pixel is opaque (R814). -/
theorem composePixel_opaque (m : Memory) (d : Half) (l x : Nat) {q : LineColumn} (h : columnOk q) :
    opaqueColour (composePixel m d l x q) := by
  have hf := (candidates_opaque m (windowControl m d x l q.info).1 h).1
  have he := effectColours_opaque m (reg16 m 0x050) hf
  refine effectOr_opaque _ _ _ hf ?_
  split
  · exact he.1
  · exact he.2.1
  · exact he.2.2.1
  · exact he.2.2.2

/-- Every column of proper buffers is one of layer colours. -/
theorem columnOf_ok {s : State} (h : s.buffersOk) (x : Nat) : columnOk (columnOf s x) := by
  have get : ∀ row : List Half, colourRow row → layerColour (row.getD x transparent) := by
    intro row hr
    by_cases hx : x < row.length
    · rw [List.getD_eq_getElem _ _ hx]
      exact hr.2 _ (List.getElem_mem hx)
    · rw [List.getD_eq_default _ _ (by omega)]
      exact .inl rfl
  obtain ⟨h0, h1, h2, h3, h4, -⟩ := h
  exact ⟨get _ h0, get _ h1, get _ h2, get _ h3, get _ h4⟩

/-! ## The operations -/

/-- A row of pixels put into the frame keeps its shape. -/
theorem setFbRow_frameOk {s : State} {row : List Half} (y : Nat) (h : s.frameOk) (hr : pixelRow row) :
    (setFbRow y row s).frameOk := ⟨by simpa using h.1, mem_set_of h.2 hr⟩

/-- A pixel put into the frame keeps its shape. -/
theorem setFbPixel_frameOk {s : State} {c : Half} (y x : Nat) (h : s.frameOk) (hc : opaqueColour c) :
    (setFbPixel y x c s).frameOk := by
  by_cases hy : y < s.fb.length
  · refine ⟨by simpa using h.1, mem_set_of h.2 ?_⟩
    rw [List.getD_eq_getElem _ _ hy]
    have hr := h.2 _ (List.getElem_mem hy)
    exact ⟨by simpa using hr.1, mem_set_of hr.2 hc⟩
  · have e : (setFbPixel y x c s).fb = s.fb := List.set_eq_of_length_le (by omega)
    unfold State.frameOk
    rw [e]
    exact h

/-- A layer's row put into its buffer keeps the shapes. -/
theorem setLb_buffersOk {s : State} {row : List Half} (n : BitVec 2) (h : s.buffersOk) (hr : colourRow row) :
    (setLb n row s).buffersOk := by
  obtain ⟨h0, h1, h2, h3, h4⟩ := h
  unfold setLb
  split
  · exact ⟨hr, h1, h2, h3, h4⟩
  · exact ⟨h0, hr, h2, h3, h4⟩
  · exact ⟨h0, h1, hr, h3, h4⟩
  · exact ⟨h0, h1, h2, hr, h4⟩

/-- A mode 0 to 5 leaves buffers of the right shape, whatever they were, and keeps the frame (42_backgrounds.md R600). -/
theorem modeRow_shapes (m : Memory) (d : Half) (l : Nat) (ks : LayerKinds) {s : State} (hf : s.frameOk) :
    (modeRow m d l ks s).buffersOk ∧ (modeRow m d l ks s).frameOk := by
  have hs := spritePass_ok m d l
  have hb : (setSprites (spritePass m d l).cells (renderLayers m d l ks s)).buffersOk := by
    refine ⟨renderLayer_row _ _ _ _ _ _ _ _ _, renderLayer_row _ _ _ _ _ _ _ _ _, renderLayer_row _ _ _ _ _ _ _ _ _,
      renderLayer_row _ _ _ _ _ _ _ _ _, ⟨by simpa using hs.1, fun c hc => ?_⟩, by simpa using hs.1, fun i hi => ?_⟩
    · obtain ⟨p, hp, rfl⟩ := List.mem_map.1 hc
      exact (hs.2 p hp).1
    · obtain ⟨p, hp, rfl⟩ := List.mem_map.1 hi
      exact (hs.2 p hp).2
  unfold modeRow
  dsimp only
  split
  · exact ⟨hb, setFbRow_frameOk _ hf (drawRow_row _)⟩
  · exact ⟨hb, setFbRow_frameOk _ hf (pixelRow_columns fun x => composePixel_opaque _ _ _ _ (columnOf_ok hb x))⟩

/-- A row of draws keeps the shapes. -/
theorem undefinedRow_shapes {s : State} (hb : s.buffersOk) (hf : s.frameOk) :
    (undefinedRow s).buffersOk ∧ (undefinedRow s).frameOk := by
  unfold undefinedRow onVisible
  split
  · exact ⟨hb, setFbRow_frameOk _ hf (drawRow_row _)⟩
  · exact ⟨hb, hf⟩

/-- `WritePixel` at a column keeps the shapes (43_sprites.md R712). -/
theorem writePixelAt_buffersOk {s : State} (x : Nat) (prio mode : BitVec 2) (c : BitVec 15) (h : s.buffersOk) :
    (writePixelAt x prio mode (0#1 ++ c) s).buffersOk := by
  unfold writePixelAt
  split
  · split
    · rename_i c4 i5 h4 h5
      obtain ⟨h0, h1, h2, h3, hc, hl, hi⟩ := h
      have hop : opaqueColour (0#1 ++ c) := by
        unfold opaqueColour; rw [BitVec.getLsbD_append]; simp
      have hw := writePixel_ok (prio := prio) (mode := mode) hop
        (cell := (c4, i5)) ⟨hc.2 _ (List.mem_of_getElem? h4), hi _ (List.mem_of_getElem? h5)⟩
      exact ⟨h0, h1, h2, h3, ⟨by simpa using hc.1, mem_set_of hc.2 hw.1⟩, by simpa using hl, mem_set_of hi hw.2⟩
    · exact h
  · exact h

end Sys2Proof.Machine
end

