-- ==== Sys2Proof/Tests/Slice0.lean ====
section
/-! SUPPORT. The model's own tests: ill-formed terms refused, a word of every operation written out from the spec's
encoding of it, the vectors of 95_test_vectors.md, and a witness for the hypotheses of every statement that has any. -/

namespace Sys2Proof.Tests

open Sys2Proof Sys2Proof.Machine

/-! ## Helpers -/

/-- The state after an operation, and the state itself where the operation stops. -/
def after (i : Instr) (s : State) : State :=
  match exec i s with
  | .next t => t
  | .fault _ => s
  | .refused _ => s

/-- The state after reset with a memory and a line. -/
def at0 (mem : Memory) (line : BitVec 8) : State := { State.reset with mem := mem, line := line }

/-- A frame: the selecting halfword (low byte first), the format, the small operand, and operand bytes padded with
zeros to 12. -/
def row (s0 s1 tag p : Byte) (ops : List Byte) : List Byte :=
  s0 :: s1 :: tag :: p :: (ops ++ List.replicate (12 - ops.length) 0#8)

/-- The operation of a frame, none where the decoder refuses. -/
def op (bytes : List Byte) : Option Instr := (decode bytes).toOption

/-! ## Well-formedness: one ill-formed term for each check -/

theorem test_ill_mode_bits : ¬ WellFormed (.mode3 0x0004#16) := by decide
theorem test_ill_mode_fblank : ¬ WellFormed (.mode3 0x0083#16) := by decide
theorem test_ill_fblank_mode : ¬ WellFormed (.fblankMode6 0x0007#16) := by decide
theorem test_ill_mode7 : ¬ WellFormed (.mode7 0x0006#16) := by decide
theorem test_ill_fblank_bit : ¬ WellFormed (.fblankBit 0x0006#16) := by decide
theorem test_ill_text4 : ¬ WellFormed (.bgText4bpp 0#2 0x0080#16) := by decide
theorem test_ill_text8 : ¬ WellFormed (.bgText8bpp 0#2 0x0000#16) := by decide
theorem test_ill_clip : ¬ WellFormed (.bgAffineClip 0#1 0x2000#16) := by decide
theorem test_ill_wrap : ¬ WellFormed (.bgAffineWrap 0#1 0x0000#16) := by decide
theorem test_ill_window_column : ¬ WellFormed (.winNone 255#8) := by decide
theorem test_ill_effect_column : ¬ WellFormed (.effNone 0#16 240#8) := by decide
theorem test_ill_forced_column : ¬ WellFormed (.effForcedAlpha 240#8) := by decide
theorem test_ill_effect_none : ¬ WellFormed (.effNone 0x0040#16 0#8) := by decide
theorem test_ill_effect_alpha : ¬ WellFormed (.effAlpha 0x0080#16 0#8) := by decide
theorem test_ill_effect_brighten : ¬ WellFormed (.effBrighten 0x00C0#16 0#8) := by decide
theorem test_ill_effect_darken : ¬ WellFormed (.effDarken 0x0000#16 0#8) := by decide

/-- Terms at the ends of their ranges are well-formed. -/
theorem test_well : WellFormed (.bitmap3 240#32 160#32) ∧ WellFormed (.objModeNormal 240#8 0#2 0#15) ∧
    WellFormed (.winOut 239#8) ∧ WellFormed (.mode0 0xFF78#16) ∧ WellFormed (.fblankBit 0x0087#16) := by decide

/-! ## Decoding: one word for every operation. The first two bytes are the selecting bits of the spec (30_encoding.md
R302, R303, R304, R312, 10_state.md R123; line counters in R500), the third is the format of log entry 2. -/

theorem test_decode_rd8 :
    op (row 0b0000#8 0#8 0#8 0#8 [0x06#8, 0x00#8, 0x00#8, 0x04#8]) =
      some (.rd8 0x04000006#32) := by decide
theorem test_decode_rd16 :
    op (row 0b0001#8 0#8 0#8 0#8 [0x02#8, 0x00#8, 0x00#8, 0x06#8]) =
      some (.rd16 0x06000002#32) := by decide
theorem test_decode_rd32 :
    op (row 0b0010#8 0#8 0#8 0#8 [0x28#8, 0x00#8, 0x00#8, 0x04#8]) =
      some (.rd32 0x04000028#32) := by decide
theorem test_decode_wr8 :
    op (row 0b0100#8 0#8 0#8 0#8 [0x2B#8, 0x00#8, 0x00#8, 0x04#8, 0xF0#8]) =
      some (.wr8 0x0400002B#32 0xF0#8) := by decide
theorem test_decode_wr16 :
    op (row 0b0101#8 0#8 0#8 0#8 [0xCA#8, 0x03#8, 0x00#8, 0x06#8, 0xFF#8, 0x12#8]) =
      some (.wr16 0x060003CA#32 0x12FF#16) := by decide
theorem test_decode_wr32 :
    op (row 0b0110#8 0#8 0#8 0#8 [0x28#8, 0x00#8, 0x00#8, 0x04#8, 0x00#8, 0xFF#8, 0xFF#8, 0x0F#8]) =
      some (.wr32 0x04000028#32 0x0FFFFF00#32) := by decide
theorem test_decode_cas32 :
    op (row 0b1010#8 0#8 0#8 0#8 [4#8, 0#8, 0#8, 4#8, 8#8, 0#8, 5#8, 0#8, 0#8, 0#8, 5#8, 0#8]) =
      some (.cas32 0x04000004#32 0x00050000#32 0x00050008#32) := by decide
theorem test_decode_line : op (row 0b1100#8 0#8 0#8 0#8 []) = some (.line) := by decide
theorem test_decode_stop : op (row 0b1101#8 0#8 0#8 0#8 []) = some (.stop) := by decide
theorem test_decode_addmon :
    op (row 0#8 0#8 1#8 1#8 [0x38#8, 0x00#8, 0x00#8, 0x04#8, 8#8]) =
      some (.addmon 1#1 0x04000038#32 8#32) := by decide
theorem test_decode_lineVisible : op (row 159#8 0#8 2#8 0#8 []) = some (.lineVisible) := by decide
theorem test_decode_lineVblankEntry : op (row 160#8 0#8 2#8 0#8 []) = some (.lineVblankEntry) := by decide
theorem test_decode_lineVblank : op (row 227#8 0#8 2#8 0#8 []) = some (.lineVblank) := by decide
theorem test_decode_mode0 : op (row 0b00000000#8 0x01#8 3#8 0#8 []) = some (.mode0 0x0100#16) := by decide
theorem test_decode_mode1 : op (row 0b00000001#8 0x0F#8 3#8 0#8 []) = some (.mode1 0x0F01#16) := by decide
theorem test_decode_mode2 : op (row 0b00000010#8 0x0F#8 3#8 0#8 []) = some (.mode2 0x0F02#16) := by decide
theorem test_decode_mode3 : op (row 0b00000011#8 0x04#8 3#8 0#8 []) = some (.mode3 0x0403#16) := by decide
theorem test_decode_mode4 : op (row 0b00010100#8 0x00#8 3#8 0#8 []) = some (.mode4 0x0014#16) := by decide
theorem test_decode_mode5 : op (row 0b00010101#8 0x00#8 3#8 0#8 []) = some (.mode5 0x0015#16) := by decide
theorem test_decode_fblankMode6 : op (row 0b00000110#8 0x00#8 3#8 0#8 []) = some (.fblankMode6 0x0006#16) := by decide
theorem test_decode_mode7 : op (row 0b00000111#8 0x00#8 3#8 0#8 []) = some (.mode7 0x0007#16) := by decide
theorem test_decode_fblankBit : op (row 0b10000111#8 0x00#8 3#8 0#8 []) = some (.fblankBit 0x0087#16) := by decide
theorem test_decode_objMap2d :
    op (row 0b00000000#8 0#8 4#8 0#8 [0xFF#8, 3#8, 0#8, 0#8, 8#8, 63#8, 1#8]) =
      some (.objMap2d 1023#10 true 8#6 63#6) := by decide
theorem test_decode_objMap1d :
    op (row 0b01000000#8 0#8 4#8 16#8 [4#8, 0#8, 0#8, 0#8, 9#8, 10#8, 0#8]) =
      some (.objMap1d 4#10 16#8 false 9#6 10#6) := by decide
theorem test_decode_bgText4bpp : op (row 0b00000001#8 0x08#8 5#8 0#8 []) = some (.bgText4bpp 0#2 0x0801#16) := by decide
theorem test_decode_bgText8bpp : op (row 0b10000000#8 0x08#8 5#8 3#8 []) = some (.bgText8bpp 3#2 0x0880#16) := by decide
theorem test_decode_bgAffineClip :
    op (row 0x04#8 0b00000001#8 6#8 0#8 []) =
      some (.bgAffineClip 0#1 0x0104#16) := by decide
theorem test_decode_bgAffineWrap :
    op (row 0x04#8 0b00100001#8 6#8 1#8 []) =
      some (.bgAffineWrap 1#1 0x2104#16) := by decide
theorem test_decode_objRegular :
    op (row 0#8 0b00000000#8 7#8 0#8 [0x00#8, 0x10#8, 0#8, 0#8, 16#8, 8#8, 3#8, 7#8]) =
      some (.objRegular 0x1000#16 16#8 8#8 3#8 7#8) := by decide
theorem test_decode_objAffine :
    op (row 0#8 0b00000001#8 7#8 0#8 [0x00#8, 0x3E#8, 0#8, 0#8, 8#8, 8#8, 3#8, 5#8]) =
      some (.objAffine 0x3E00#16 8#8 8#8 3#8 5#8) := by decide
theorem test_decode_objHidden : op (row 0#8 0b11000010#8 7#8 0#8 []) = some (.objHidden) := by decide
theorem test_decode_objAffineDouble :
    op (row 0#8 0b00000011#8 7#8 0#8 [0#8, 0#8, 0#8, 0#8, 8#8, 8#8, 4#8, 4#8]) =
      some (.objAffineDouble 0#16 8#8 8#8 4#8 4#8) := by decide
theorem test_decode_objModeNormal :
    op (row 0#8 0b00000000#8 8#8 10#8 [2#8, 0#8, 0#8, 0#8, 0x00#8, 0x7C#8]) =
      some (.objModeNormal 10#8 2#2 0x7C00#15) := by decide
theorem test_decode_objModeSemi :
    op (row 0#8 0b00000100#8 8#8 239#8 [1#8]) =
      some (.objModeSemi 239#8 1#2 0#15) := by decide
theorem test_decode_objModeWindow :
    op (row 0#8 0b00001000#8 8#8 50#8 [1#8]) =
      some (.objModeWindow 50#8 1#2 0#15) := by decide
theorem test_decode_objModeProhibited : op (row 0#8 0b00001100#8 8#8 0#8 []) = some (.objModeProhibited) := by decide
theorem test_decode_obj4bpp :
    op (row 0#8 0b00000000#8 9#8 16#8 [0x04#8, 0x30#8, 0#8, 0#8, 9#8, 10#8]) =
      some (.obj4bpp 0x3004#16 16#8 9#6 10#6) := by decide
theorem test_decode_obj8bpp :
    op (row 0#8 0b00100000#8 9#8 64#8 [0#8, 0#8, 0#8, 0#8, 63#8, 63#8]) =
      some (.obj8bpp 0#16 64#8 63#6 63#6) := by decide
theorem test_decode_objShapeSquare : op (row 0#8 0b00000000#8 10#8 3#8 []) = some (.objShapeSquare 3#2) := by decide
theorem test_decode_objShapeHorizontal :
    op (row 0#8 0b01000000#8 10#8 2#8 []) =
      some (.objShapeHorizontal 2#2) := by decide
theorem test_decode_objShapeVertical : op (row 0#8 0b10000000#8 10#8 1#8 []) = some (.objShapeVertical 1#2) := by decide
theorem test_decode_objShapeProhibited : op (row 0#8 0b11000000#8 10#8 0#8 []) = some (.objShapeProhibited) := by decide
theorem test_decode_bitmap3 :
    op (row 0b00000011#8 0#8 11#8 0#8 [239#8, 0#8, 0#8, 0#8, 159#8]) =
      some (.bitmap3 239#32 159#32) := by decide
theorem test_decode_bitmap4 :
    op (row 0b00010100#8 0#8 11#8 0#8 [1#8, 0#8, 0#8, 0#8, 1#8]) =
      some (.bitmap4 1#1 1#32 1#32) := by decide
theorem test_decode_bitmap5 :
    op (row 0b00000101#8 0#8 11#8 0#8 [159#8, 0#8, 0#8, 0#8, 127#8]) =
      some (.bitmap5 0#1 159#32 127#32) := by decide
theorem test_decode_effNone : op (row 0b00111111#8 0x00#8 12#8 0#8 []) = some (.effNone 0x003F#16 0#8) := by decide
theorem test_decode_effAlpha :
    op (row 0b01000001#8 0x20#8 12#8 239#8 []) =
      some (.effAlpha 0x2041#16 239#8) := by decide
theorem test_decode_effBrighten :
    op (row 0b10000001#8 0x00#8 12#8 7#8 []) =
      some (.effBrighten 0x0081#16 7#8) := by decide
theorem test_decode_effDarken : op (row 0b11000001#8 0x00#8 12#8 7#8 []) = some (.effDarken 0x00C1#16 7#8) := by decide
theorem test_decode_effForcedAlpha : op (row 5#8 0#8 13#8 7#8 []) = some (.effForcedAlpha 7#8) := by decide
theorem test_decode_winNone : op (row 0#8 0#8 13#8 7#8 []) = some (.winNone 7#8) := by decide
theorem test_decode_win0 : op (row 1#8 0#8 13#8 7#8 []) = some (.win0 7#8) := by decide
theorem test_decode_win1 : op (row 2#8 0#8 13#8 7#8 []) = some (.win1 7#8) := by decide
theorem test_decode_winObj : op (row 3#8 0#8 13#8 7#8 []) = some (.winObj 7#8) := by decide
theorem test_decode_winOut : op (row 4#8 0#8 13#8 239#8 []) = some (.winOut 239#8) := by decide

/-- What is no row is refused: a short frame, an unknown format, a line of 228, a column of 240 of the compositor. -/
theorem test_decode_refusals :
    op [] = none ∧ op (row 0#8 0#8 15#8 0#8 []) = none ∧ op (row 228#8 0#8 2#8 0#8 []) = none ∧
      op (row 1#8 0#8 13#8 240#8 []) = none ∧ op (row 0x10#8 0#8 0#8 0#8 []) = none := by decide

/-- A hidden record is OBJ_HIDDEN whatever its other fields hold (43_sprites.md R713). -/
theorem test_decode_hidden :
    op (row 0#8 0b00000110#8 8#8 0#8 []) = some .objHidden ∧ op (row 0#8 0b11100010#8 10#8 0#8 []) = some .objHidden := by
  decide

/-- Command codes 3, 7, E, F are illegal and 8, 9, B are unsupported widths (30_encoding.md R335). -/
theorem test_decode_commands :
    decode (row 0x3#8 0#8 0#8 0#8 []) = .error (.illegalCommand 0x3#16) ∧
      decode (row 0xE#8 0#8 0#8 0#8 []) = .error (.illegalCommand 0xE#16) ∧
      decode (row 0x9#8 0#8 0#8 0#8 [1#8, 0#8, 0#8, 8#8]) = .error (.unsupportedWidth 0x9#4 0x08000001#32) := by
  refine ⟨rfl, rfl, rfl⟩

/-! ## Bus transactions (95_test_vectors.md section 2.1) -/

/-- B1. -/
theorem test_B1_rd8 : (after (.rd8 0x04000006#32) State.reset).response = .value 0#32 := by decide

/-- B2: little-endian. -/
theorem test_B2_wr16 :
    (after (.wr16 0x05000000#32 0x1234#16) State.reset).mem = [(0x05000000, 0x34#8), (0x05000001, 0x12#8)] := by decide

/-- B3. -/
theorem test_B3_rd16 :
    (after (.rd16 0x06000002#32) (after (.wr32 0x06000000#32 0xAABBCCDD#32) State.reset)).response =
      .value 0x0000AABB#32 := by decide

/-- B4: a byte write stores one byte. -/
theorem test_B4_wr8 : (after (.wr8 0x06000001#32 0x7F#8) State.reset).mem = [(0x06000001, 0x7F#8)] := by decide

/-- B5. -/
theorem test_B5_misaligned :
    (after (.rd16 0x06000001#32) State.reset).faults = [.misaligned 0x06000001#32 2] := by decide

/-- B6. -/
theorem test_B6_misaligned :
    (after (.wr32 0x04000002#32 0#32) State.reset).faults = [.misaligned 0x04000002#32 4] := by decide

/-- B9: the first byte past the I/O window. -/
theorem test_B9_outside :
    (after (.rd8 0x04000060#32) State.reset).refused = true ∧ (after (.rd8 0x0400005F#32) State.reset).refused = false := by decide

/-- B10: the window check comes before alignment. -/
theorem test_B10_order :
    (after (.rd32 0x0400005E#32) State.reset).refused = true ∧ (after (.rd32 0x0400005E#32) State.reset).faults = [] := by decide

/-- B13: DISPSTAT[2:0] keep their values. -/
theorem test_B13_mask :
    reg16 (after (.wr16 0x04000004#32 0xFFFF#16) (at0 [(0x04000004, 1#8)] 0#8)).mem 0x004 = 0xFFF9#16 := by decide

/-- B14. -/
theorem test_B14_vcount :
    reg16 (after (.wr16 0x04000006#32 0x1234#16) (at0 [(0x04000006, 5#8)] 0#8)).mem 0x006 = 5#16 := by decide

/-- B15: the second compare-and-set finds another word. -/
theorem test_B15_cas :
    let s := after (.cas32 0x04000004#32 0x00050000#32 0x00050008#32) (at0 [(0x04000006, 5#8)] 0#8)
    s.response = .flag true ∧ reg32 s.mem 0x004 = 0x00050008#32 ∧
      (after (.cas32 0x04000004#32 0x00050000#32 0x00050008#32) s).response = .flag false := by decide

/-- B16: the write mask acts on the stored word. -/
theorem test_B16_cas :
    reg32 (after (.cas32 0x04000004#32 0x00050000#32 0x00060007#32) (at0 [(0x04000006, 5#8)] 0#8)).mem 0x004 =
      0x00050000#32 := by decide

/-- B17. -/
theorem test_B17_acc : (after (.wr8 0x0400002B#32 0x08#8) State.reset).acc0.x.toInt = -134217728 := by decide

/-- B18. -/
theorem test_B18_acc : (after (.wr16 0x0400002A#32 0x0FFF#16) State.reset).acc0.x.toInt = -65536 := by decide

/-- B19. -/
theorem test_B19_acc :
    (after (.wr32 0x04000028#32 0xFFFFFFFF#32) State.reset).acc0 = { x := -1#28, y := 0#28 } := by decide

/-- B20 and B22: bits 31:28 do not reach the accumulator, and BG3PA and BG3PB are outside both monitored ranges. -/
theorem test_B20_B22_acc :
    (after (.wr32 0x04000028#32 0xF0000005#32) State.reset).acc0.x = 5#28 ∧
      (after (.wr32 0x04000030#32 0x12345678#32) State.reset).acc1 = { x := 0#28, y := 0#28 } := by decide

/-- B21: a byte write to bits 31:28 re-seeds the accumulator. -/
theorem test_B21_acc :
    (after (.wr8 0x0400002B#32 0#8)
      { at0 [(0x04000029, 2#8)] 0#8 with acc0 := { x := 0x500#28, y := 7#28 } }).acc0 = { x := 0x200#28, y := 7#28 } := by
  decide

/-- B18: the arguments the monitor gets (40_register_interface.md R409). -/
theorem test_B18_monitor :
    monitorCall 0x0400002A#32 .half 0#32 0x0FFF0000#32 =
      { address := 0x0400002A#32, shift := 16, mask := 0xFFFF0000#32, old := 0#32, new := 0x0FFF0000#32 } := by decide

/-- ADDMON appends. -/
theorem test_addmon : (after (.addmon 0#1 0x04000028#32 4#32) State.reset).monitors.length = 3 := by decide

/-! ## The Timing Engine (section 2.2) -/

/-- T3 and T4: DISPSTAT on line 5 with LYC = 5, after S6 and after S8. -/
theorem test_T3_T4 :
    let s := { at0 [(0x04000004, 4#8), (0x04000005, 5#8), (0x04000006, 5#8)] 5#8 with phase := .s6 }
    dispstat (engineStep s).mem = 0x0506#16 ∧ (engineStep s).events = [.signal .hblank] ∧
      dispstat (engineStep { engineStep s with phase := .s8 }).mem = 0x0504#16 := by decide

/-- T5: the requests and signals of line 160, sub-step by sub-step (DISPSTAT = 0xA038). -/
theorem test_T5 :
    let s := at0 [(0x04000004, 0x38#8), (0x04000005, 0xA0#8)] 160#8
    (engineStep { s with phase := .s2 }).events = [.requestInterrupt .lcdVcounterMatch] ∧
      (engineStep { s with phase := .s4 }).events =
        [.frameReady 1, .signal .vblank, .requestInterrupt .lcdVblank] ∧
      (engineStep { s with phase := .s6 }).events = [.signal .hblank] := by decide

/-- T1 and T7: the flags of S2 at line 0, VBLANK_FLAG cleared and VCOUNT_FLAG set (LYC = 0). -/
theorem test_T1_T7 : dispstat (engineStep { at0 [(0x04000004, 1#8)] 0#8 with phase := .s2 }).mem = 0x0004#16 := by decide

/-- R501: at line 227 VCOUNT becomes 0x00E3. -/
theorem test_vcount : vcount (engineStep (at0 [] 227#8)).mem = 0x00E3#16 := by decide

/-- T9: the wrap of line 227 samples the shutdown flag. -/
theorem test_T9 :
    let s := { after .stop (at0 [] 227#8) with phase := .s9 }
    (engineStep s).running = false ∧ (engineStep s).line = 0#8 ∧
      (engineStep { s with line := 226#8 }).running = true := by decide

/-- A9: the reload of line 160 (R506). -/
theorem test_A9 :
    (engineStep { at0 [(0x04000029, 1#8)] 160#8 with phase := .s4, acc0 := { x := 0xA100#28, y := 0#28 } }).acc0.x =
      0x100#28 := by decide

/-- The line rows act on the lines that select them only. -/
theorem test_line_rows :
    (after .lineVisible (at0 [] 160#8)).line = 160#8 ∧ (after .lineVblankEntry (at0 [] 160#8)).line = 161#8 ∧
      (after .lineVblank (at0 [] 160#8)).line = 160#8 ∧ (after .lineVblank (at0 [] 227#8)).line = 0#8 := by decide

/-! ## Display modes, layers and accumulators (sections 2.3 to 2.6) -/

/-- V-L1-2: the advance wraps at 28 bits, and 0xFF00 moves by -256. -/
theorem test_L1_2 :
    (advanceBy 0x07FFFF00#28 0x0100#16).toInt = -0x8000000 ∧ (advanceBy 0#28 0xFF00#16).toInt = -0x100 := by decide

/-- M1: forced blank is white. -/
theorem test_M1 : ((after (.fblankBit 0x1F86#16) (at0 [] 159#8)).fb.getD 159 []).getD 239 0#16 = 0x7FFF#16 := by decide

/-- M2 and M4: mode 6 is white; mode 7 keeps the line buffers and takes 240 draws. -/
theorem test_M2_M4 :
    ((after (.fblankMode6 0x0006#16) (at0 [] 0#8)).fb.getD 0 []).getD 0 0#16 = 0x7FFF#16 ∧
      (after (.mode7 0x0007#16) (at0 [] 0#8)).draws = 240 := by decide

/-- The memory of section 2.4 with BG0CNT = 0x0801: map entry 0x0001 at VRAM 0x4000, rows 0 of tile 1 all index 1. -/
def textMem : Memory :=
  [(0x04000008, 0x01#8), (0x04000009, 0x08#8), (0x05000002, 0x1F#8), (0x06000020, 0x11#8), (0x06000021, 0x11#8),
    (0x06000022, 0x11#8), (0x06000023, 0x11#8), (0x06004000, 0x01#8)]

/-- X1: eight pixels of colour 1, then tile 0. -/
theorem test_X1 :
    let s := after (.bgText4bpp 0#2 0x0801#16) (at0 textMem 0#8)
    s.lb0[0]? = some 0x001F#16 ∧ s.lb0[7]? = some 0x001F#16 ∧ s.lb0[8]? = some 0x8000#16 := by decide

/-- X3: BG0HOFS = 508 moves the tile to columns 4 to 11. -/
theorem test_X3 :
    let p := fun x => textPosition [(0x04000010, 0xFC#8), (0x04000011, 0x01#8)] 0 0x0801#16 x 0
    p 3 = (255, 0) ∧ p 4 = (0, 0) ∧ p 11 = (7, 0) := by decide

/-- X4: block 3 of a 512 by 512 map. -/
theorem test_X4 : textEntryOffset 0xC000#16 300 260 = 0x180A := by decide

/-- X5: the mosaic snap. -/
theorem test_X5 :
    (textPosition [(0x0400004C, 3#8)] 0 0x0040#16 7 0).1 = 4 ∧ (textPosition [(0x0400004C, 3#8)] 0 0x0040#16 8 0).1 = 8 := by
  decide

/-- X6: entry 0x1003 at column 9 of line 2 takes the high nibble of byte 104 in sub-palette 1. -/
theorem test_X6 :
    (after (.bgText4bpp 0#2 0#16)
      (at0 [(0x05000024, 0x34#8), (0x05000025, 0x12#8), (0x06000002, 0x03#8), (0x06000003, 0x10#8), (0x06000068, 0x21#8)]
        2#8)).lb0[9]? = some 0x1234#16 := by decide

/-- X7: the 8-bit form with HFLIP takes byte 150. -/
theorem test_X7 :
    (after (.bgText8bpp 1#2 0x0080#16)
      (at0 [(0x0500000E, 0xE0#8), (0x0500000F, 0x03#8), (0x06000002, 0x02#8), (0x06000003, 0x04#8), (0x06000096, 7#8)]
        2#8)).lb1[9]? = some 0x03E0#16 := by decide

/-- X8: VFLIP on line 2 gives ty = 5. -/
theorem test_X8 : (textEntry 0x0801#16 0 2).ty = 5 := by decide

/-- A1: rounding. -/
theorem test_A1 : round8 0x17F = 1 ∧ round8 0x180 = 2 ∧ round8 (-0x80) = 0 ∧ round8 (-0x81) = -1 := by decide

/-- The memory of section 2.5 for the identity matrix of slot 0. -/
def affineMem : Memory :=
  [(0x04000021, 1#8), (0x04000027, 1#8), (0x0500000A, 0xE0#8), (0x0500000B, 0x03#8), (0x06000800, 1#8),
    (0x06004040, 5#8), (0x06004047, 5#8)]

/-- A2: the tile, then tile 0, then out of bounds. -/
theorem test_A2 :
    let s := after (.bgAffineClip 0#1 0x0104#16) (at0 affineMem 0#8)
    s.lb2[0]? = some 0x03E0#16 ∧ s.lb2[7]? = some 0x03E0#16 ∧ s.lb2[8]? = some 0x8000#16 ∧
      s.lb2[128]? = some 0x8000#16 := by decide

/-- A3: column 128 wraps to 0. -/
theorem test_A3 : (after (.bgAffineWrap 0#1 0x2104#16) (at0 affineMem 0#8)).lb2[128]? = some 0x03E0#16 := by decide

/-- A7: ix = -1 wraps to 127 and is clipped otherwise. -/
theorem test_A7 : wrapPosition (-1) 0 128 = (127, 0) ∧ clipPosition (-1) 0 128 128 = none := by decide

/-- BM1: pixel (5, 2) of mode 3. -/
theorem test_BM1 :
    (after (.bitmap3 5#32 2#32) (at0 [(0x060003CA, 0xFF#8), (0x060003CB, 0xFF#8)] 2#8)).bmpPixel = 0x7FFF#16 := by decide

/-- R624: outside its bitmap a position is transparent, also where VRAM holds a byte. -/
theorem test_bitmap_outside :
    (after (.bitmap3 240#32 0#32) (at0 [(0x060001E0, 0xFF#8)] 0#8)).bmpPixel = 0x8000#16 ∧
      (after (.bitmap5 0#1 0#32 128#32) (at0 [(0x0600A000, 0xFF#8)] 0#8)).bmpPixel = 0x8000#16 := by decide

/-- BM4 on row 0, whatever the geometry: byte 1 of frame 1. -/
theorem test_BM4 :
    (bitmapPixel4 [(0x0500000E, 0xE0#8), (0x0500000F, 0x03#8), (0x0600A0F1, 7#8)] 240 1 0 1 1) = 0x03E0#16 := by decide

/-- BM5: pixel (3, 1) of frame 1 of mode 5. -/
theorem test_BM5 : (after (.bitmap5 1#1 3#32 1#32) (at0 [(0x0600A146, 0x1F#8)] 1#8)).bmpPixel = 0x001F#16 := by decide

/-! ## Sprites (section 2.7 and V-L1-5) -/

/-- A box and the tiles of its last texel in the two mappings, base tile 0. -/
def boxTiles (shape size : BitVec 2) : Nat × Nat × Nat × Nat :=
  match boxOf? shape size with
  | some (w, h) => (w, h, tileNum1d 0 w 1 (w - 1) (h - 1), tileNum2d 0 1 (w - 1) (h - 1))
  | none => (0, 0, 0, 0)

/-- V-L1-5, the square and horizontal boxes. -/
theorem test_L1_5_square_horizontal :
    boxTiles 0 0 = (8, 8, 0, 0) ∧ boxTiles 0 1 = (16, 16, 3, 33) ∧ boxTiles 0 2 = (32, 32, 15, 99) ∧
      boxTiles 0 3 = (64, 64, 63, 231) ∧ boxTiles 1 0 = (16, 8, 1, 1) ∧ boxTiles 1 1 = (32, 8, 3, 3) ∧
      boxTiles 1 2 = (32, 16, 7, 35) ∧ boxTiles 1 3 = (64, 32, 31, 103) := by decide

/-- V-L1-5, the vertical boxes. -/
theorem test_L1_5_vertical :
    boxTiles 2 0 = (8, 16, 1, 32) ∧ boxTiles 2 1 = (8, 32, 3, 96) ∧ boxTiles 2 2 = (16, 32, 7, 97) ∧
      boxTiles 2 3 = (32, 64, 31, 227) := by decide

/-- V-L1-5: the offsets of the last texel, 4-bit 64×64 and 8-bit 64×64. -/
theorem test_L1_5_offsets :
    objOffset4 63 63 63 = 0x107FF ∧ objOffset4 231 63 63 = 0x11CFF ∧ objOffset8 126 63 63 = 0x10FFF ∧
      objOffset8 238 63 63 = 0x11DFF := by decide

/-- S6: HFLIP. -/
theorem test_S6 : (after (.objRegular 0x1000#16 16#8 16#8 3#8 0#8) State.reset).texel = { ok := true, tx := 12, ty := 0 } := by
  decide

/-- The identity parameter set 0 (30_encoding.md R314). -/
def identitySet : Memory := [(0x07000007, 1#8), (0x0700001F, 1#8)]

/-- S7 and S9: the identity samples its own position, the zero set texel (4, 4). -/
theorem test_S7_S9 :
    (after (.objAffine 0#16 8#8 8#8 3#8 5#8) (at0 identitySet 0#8)).texel = { ok := true, tx := 3, ty := 5 } ∧
      (after (.objAffine 0#16 8#8 8#8 3#8 5#8) State.reset).texel = { ok := true, tx := 4, ty := 4 } := by decide

/-- S8: the double-size box. -/
theorem test_S8 :
    (after (.objAffineDouble 0#16 8#8 8#8 0#8 4#8) (at0 identitySet 0#8)).texel = { ok := false, tx := -4, ty := 0 } ∧
      (after (.objAffineDouble 0#16 8#8 8#8 4#8 4#8) (at0 identitySet 0#8)).texel = { ok := true, tx := 0, ty := 0 } := by
  decide

/-- S10: a hidden record does nothing. -/
theorem test_S10 : after .objHidden State.reset = State.reset := rfl

/-- S11 to S14: what makes a line a draw. -/
theorem test_S11_S14 :
    (spritePass [(0x07000001, 0xC0#8)] 0x1000#16 0).prohibited = true ∧
      prohibitedRecord 0xC200#16 = false ∧ prohibitedRecord 0x0C00#16 = true ∧
      (spritePass [(0x07000001, 0xC0#8)] 0x0000#16 0).prohibited = false := by decide

/-- The rows of the two prohibited values take a row of draws. -/
theorem test_prohibited :
    (after .objModeProhibited State.reset).draws = 240 ∧ (after .objShapeProhibited State.reset).draws = 240 := by decide

/-- S15: an object-window pixel writes metadata only. -/
theorem test_S15 :
    let s := after (.objModeWindow 50#8 1#2 0x1234#15) State.reset
    s.lb4[50]? = some 0x8000#16 ∧ s.lb5[50]? = some { prio := 1#2, mode := 2#2, semi := false } := by decide

/-- S17: a normal pixel. -/
theorem test_S17 :
    let s := after (.objModeNormal 7#8 2#2 0x7C00#15) State.reset
    s.lb4[7]? = some 0x7C00#16 ∧ s.lb5[7]? = some { prio := 2#2, mode := 0#2, semi := false } := by decide

/-- S18: a semi-transparent pixel. -/
theorem test_S18 :
    (after (.objModeSemi 7#8 1#2 0#15) State.reset).lb5[7]? = some { prio := 1#2, mode := 1#2, semi := true } := by decide

/-- R705: a column off the screen is skipped. -/
theorem test_off_screen : after (.objModeNormal 240#8 0#2 1#15) State.reset = State.reset := rfl

/-- S19 and S20: the tiles of a 16×16 sprite with T = 4 at (9, 10). -/
theorem test_S19_S20 :
    (after (.objMap1d 4#10 16#8 false 9#6 10#6) State.reset).tileNum = 7#10 ∧
      (after (.objMap1d 4#10 16#8 true 9#6 10#6) State.reset).tileNum = 10#10 ∧
      (after (.objMap2d 4#10 false 9#6 10#6) State.reset).tileNum = 37#10 ∧
      (after (.objMap2d 4#10 true 9#6 10#6) State.reset).tileNum = 38#10 := by decide

/-- S22: tile numbers wrap at 1024. -/
theorem test_S22 : (after (.objMap2d 1023#10 false 8#6 0#6) State.reset).tileNum = 0#10 := by decide

/-- S21: bank 3, index 2: palette byte 0x264. -/
theorem test_S21 :
    (after (.obj4bpp 0x3004#16 16#8 0#6 0#6)
      (at0 [(0x05000264, 0x34#8), (0x05000265, 0x12#8), (0x06010080, 2#8)] 0#8)).objPixel = (2#8, 0x1234#16) := by decide

/-- The 8-bit fetch of the rules' own example: 1D, tile 10, byte 0x10151. -/
theorem test_obj8 :
    (after (.obj8bpp 4#16 16#8 9#6 10#6)
      (at0 [(0x04000000, 0x40#8), (0x05000206, 0x1F#8), (0x06010151, 3#8)] 0#8)).objPixel = (3#8, 0x001F#16) := by decide

/-- S4 and S5: a record at Y = 250, X = -4 covers line 0 and column 0 with its texel (4, 6) (8×8 box, T = 0). -/
theorem test_S4_S5 :
    recordColumn [(0x05000202, 0x1F#8), (0x0601001A, 1#8), (0x07000000, 250#8), (0x07000002, 0xFC#8), (0x07000003, 1#8)]
      0x1000#16 0 0 0 (0x8000#16, { prio := 3#2, mode := 0#2, semi := false }) =
      (0x001F#16, { prio := 0#2, mode := 0#2, semi := false }) := by decide

/-- R706, R721 in the pass: an 8-bit 16×8 record with HFLIP in the 1D mapping, column 0 of line 0: texel (15, 0), tile 2. -/
theorem test_record_flip8 :
    recordColumn [(0x05000202, 0x1F#8), (0x06010047, 1#8), (0x07000001, 0x60#8), (0x07000003, 0x10#8), (0x07000005, 4#8)]
      0x1040#16 0 0 0 spriteInit = (0x001F#16, infoOf 1#2 0#2) := by decide

/-- R716, R718 in the pass: a double-size 8×8 semi-transparent record, set 0 the identity: column 4 of line 4 is texel
(0, 0), column 3 is outside the sprite. -/
theorem test_record_double :
    let m : Memory :=
      [(0x05000202, 0x1F#8), (0x06010000, 1#8), (0x07000001, 7#8), (0x07000007, 1#8), (0x0700001F, 1#8)]
    recordColumn m 0x1000#16 4 0 4 spriteInit = (0x001F#16, infoOf 0#2 1#2) ∧
      recordColumn m 0x1000#16 4 0 3 spriteInit = spriteInit := by decide

/-- The boxes as operations. -/
theorem test_boxes :
    (after (.objShapeSquare 3#2) State.reset).box = (64, 64) ∧ (after (.objShapeHorizontal 2#2) State.reset).box = (32, 16) ∧
      (after (.objShapeVertical 1#2) State.reset).box = (8, 32) := by decide

/-! ## The compositor (sections 2.8 to 2.10) -/

/-- W1 to W3: intervals. -/
theorem test_W1_W3 :
    inSpan 0x10 0x50 16 = true ∧ inSpan 0x10 0x50 79 = true ∧ inSpan 0x10 0x50 80 = false ∧ inSpan 200 16 200 = true ∧
      inSpan 200 16 15 = true ∧ inSpan 200 16 16 = false ∧ inSpan 0 0 0 = false := by decide

/-- The registers of W4, DISPCNT = 0x2100. -/
def winMem : Memory :=
  [(0x04000001, 0x21#8), (0x04000040, 0x50#8), (0x04000041, 0x10#8), (0x04000044, 0xA0#8), (0x0400004A, 0x01#8)]

/-- W4: window 0 inside, the outside control elsewhere. -/
theorem test_W4 :
    ((after (.win0 16#8) (at0 winMem 0#8)).winMask, (after (.win0 16#8) (at0 winMem 0#8)).winFx) = (0#5, false) ∧
      (after (.winOut 80#8) (at0 winMem 0#8)).winMask = 1#5 := by decide

/-- W5: window 1. -/
theorem test_W5 :
    let s := at0 [(0x04000001, 0x41#8), (0x04000042, 0xF0#8), (0x04000046, 0xA0#8), (0x04000049, 0x01#8)] 0#8
    (after (.win1 239#8) s).winMask = 1#5 ∧ (after (.win1 239#8) s).winFx = false := by decide

/-- W8: the object window owns column 50. -/
theorem test_W8 :
    let s := after (.objModeWindow 50#8 1#2 0#15) (at0 [(0x04000001, 0x91#8), (0x0400004A, 0x01#8)] 0#8)
    (after (.winObj 50#8) s).winMask = 0#5 ∧ (after (.winOut 49#8) s).winMask = 1#5 := by decide

/-- W9: no window enabled. -/
theorem test_W9 :
    let s := after (.winNone 0#8) { at0 [(0x04000001, 1#8)] 0#8 with winMask := 0#5, winFx := false }
    s.winMask = 0b11111#5 ∧ s.winFx = true := by decide

/-- A column of colours, BG0 to BG3 and the sprite. -/
def column (c0 c1 c2 c3 c4 : Half) (i : Info) : LineColumn := { c0 := c0, c1 := c1, c2 := c2, c3 := c3, c4 := c4, info := i }

/-- The layers of the two candidates. -/
def frontTwo (m : Memory) (mask : BitVec 5) (q : LineColumn) : LayerId × LayerId :=
  ((candidates m mask q).first.id, (candidates m mask q).second.id)

/-- PR1: the backdrop, with bit 15 cleared. -/
theorem test_PR1 :
    composePixel [(0x05000000, 0x21#8), (0x05000001, 0x84#8)] 0#16 0 0
      (column 0x8000#16 0x8000#16 0x8000#16 0x8000#16 0x8000#16 (infoOf 3#2 0#2)) = 0x0421#16 := by decide

/-- PR2 to PR6: the two frontmost. -/
theorem test_PR2_PR6 :
    let t := 0x8000#16
    let m : Memory := [(0x04000008, 1#8), (0x0400000E, 1#8)]
    let low := infoOf 3#2 0#2
    frontTwo m 31#5 (column 1#16 t t 1#16 t low) = (.bg0, .bg3) ∧
      frontTwo m 31#5 (column 1#16 t t 1#16 1#16 (infoOf 0#2 0#2)) = (.obj, .bg0) ∧
      frontTwo [] 31#5 (column t t 1#16 t 1#16 (infoOf 0#2 0#2)) = (.obj, .bg2) ∧
      frontTwo [(0x04000008, 3#8), (0x0400000A, 2#8)] 31#5 (column 1#16 1#16 t t t low) = (.bg1, .bg0) ∧
      frontTwo [(0x0400000A, 1#8)] 2#5 (column 1#16 1#16 t t t low) = (.bg1, .bd) := by decide

/-- V-L1-8 and E1, E2: blends. -/
theorem test_L1_8_alpha :
    alphaChannel 8 8 1 1 = 2 ∧ alphaChannel 16 16 31 31 = 31 ∧ alphaChannel 4 12 10 20 = 3 + 15 ∧
      alpha 8 8 0x7FFF#16 0#16 = 0x4210#16 ∧ alpha 16 16 0x7FFF#16 0x7FFF#16 = 0x7FFF#16 := by decide

/-- V-L1-8: brightness. -/
theorem test_L1_8_bright :
    brightenChannel 8 10 = 21 ∧ brightenChannel 16 0 = 31 ∧ darkenChannel 8 31 = 15 ∧ darkenChannel 8 10 = 5 ∧
      darkenChannel 8 1 = 0 ∧ darkenChannel 7 1 = 1 := by decide

/-- The state with BG0 of one colour at column 7 of line 0 and the sprite transparent there. -/
def effState (mem : Memory) (c0 : Half) : State := { at0 mem 0#8 with lb0 := List.replicate 240 c0 }

/-- The pixel at column 7 of line 0. -/
def pixel7 (s : State) : Half := fbPixel s 0 7

/-- E4 and E5: alpha over the backdrop, with and without a second target. -/
theorem test_E4_E5 :
    let s := effState [(0x04000052, 8#8), (0x04000053, 8#8), (0x05000001, 0x7C#8)] 0x001F#16
    pixel7 (after (.effAlpha 0x2041#16 7#8) s) = 0x4010#16 ∧ pixel7 (after (.effAlpha 0x0041#16 7#8) s) = 0x001F#16 := by
  decide

/-- E6 and E7: brighten and darken. -/
theorem test_E6_E7 :
    pixel7 (after (.effBrighten 0x0081#16 7#8) (effState [(0x04000054, 16#8)] 0x0000#16)) = 0x7FFF#16 ∧
      pixel7 (after (.effDarken 0x00C1#16 7#8) (effState [(0x04000054, 8#8)] 0x7FFF#16)) = 0x3DEF#16 := by decide

/-- E8: coefficients saturate at 16. -/
theorem test_E8 :
    evyOf [(0x04000054, 0x1F#8)] = 16 ∧ evaOf [(0x04000052, 0x1F#8), (0x04000053, 0x1F#8)] = 16 ∧
      evbOf [(0x04000052, 0x1F#8), (0x04000053, 0x1F#8)] = 16 := by decide

/-- A semi-transparent sprite pixel of colour 0x7C00 in front of BG0 of colour 0x001F. -/
def semiState (p : BitVec 2) : State :=
  after (.objModeSemi 7#8 p 0x7C00#15) (effState [(0x04000052, 8#8), (0x04000053, 8#8)] 0x001F#16)

/-- E9 and E10: the forced blend, and none where effects are off. -/
theorem test_E9_E10 :
    pixel7 (after (.effForcedAlpha 7#8) (semiState 0#2)) = 0x4010#16 ∧
      pixel7 (after (.effNone 0#16 7#8) (semiState 0#2)) = 0x4010#16 ∧
      pixel7 (after (.effNone 0#16 7#8) { semiState 0#2 with winFx := false }) = 0x7C00#16 := by decide

/-- E11 and E13: no forced blend behind BG0; EFFECT = 0 shows the first candidate. -/
theorem test_E11_E13 :
    pixel7 (after (.effNone 0#16 7#8) (semiState 1#2)) = 0x001F#16 ∧
      pixel7 (after (.effNone 0x003F#16 7#8) (effState [] 0x1234#16)) = 0x1234#16 := by decide

/-! ## Reset, schedule, lone words -/

/-- What a step leaves, and the state itself where it stops. -/
def stepped (s : State) : State :=
  match step s with
  | .next t => t
  | .fault _ => s
  | .refused _ => s

/-- A command of the schedule runs as the next step; with nothing scheduled the Engine moves. -/
theorem test_schedule :
    (stepped (State.reset.withFetchWord 4 0xD)).stopRequested = true ∧ (stepped State.reset).phase = .s2 := by decide

/-- The Presenter consumes what is ready, and then reads a pixel. -/
theorem test_presenter :
    let s := { after (.fblankMode6 6#16) (at0 [] 159#8) with
      framesReady := 2, schedule := [.presenterWait, .presenterRead 159 239] }
    (stepped s).consumed = 2 ∧ (stepped (stepped s)).presented = 0x7FFF#16 ∧ (stepped (stepped s)).schedule = [] := by decide

/-- From reset the Presenter is blocked: its entries stay, and the Engine and the script go on past them (10_state.md
R100, R134). -/
theorem test_presenter_blocked :
    let s := { State.reset with schedule := [.presenterWait, .presenterRead 0 0, .command (row 0xD#8 0#8 0#8 0#8 [])] }
    (stepped s).schedule = [.presenterWait, .presenterRead 0 0] ∧ (stepped s).stopRequested = true ∧
      (stepped (stepped s)).schedule = [.presenterWait, .presenterRead 0 0] ∧ (stepped (stepped s)).phase = .s2 := by decide

/-- A row that is no command of the script is refused as one (70_reset_and_hazards.md R1005), and performed on its own. -/
theorem test_not_a_command :
    let frame := row 0b10000111#8 0x00#8 3#8 0#8 []
    (stepped { State.reset with schedule := [.command frame] }).refused = true ∧
      fbPixel (stepped { State.reset with schedule := [.command frame] }) 0 0 = 0#16 ∧
      fbPixel (stepped { State.reset with schedule := [.operation frame] }) 0 0 = 0x7FFF#16 ∧
      fbPixel (stepped (State.reset.withFetchWord 16 0x0080)) 0 0 = 0x7FFF#16 := by decide

/-- B7, B8, B11: commands that decode to no operation. -/
theorem test_B7_B8 :
    (stepped { State.reset with schedule := [.command (row 9#8 0#8 0#8 0#8 [1#8, 0#8, 0#8, 8#8])] }).faults =
        [.width 0x08000001#32 0x9#4] ∧
      (stepped { State.reset with schedule := [.command (row 3#8 0#8 0#8 0#8 [])] }).refused = true := by decide

/-- Words of the table read alone. -/
theorem test_lone_words :
    decodeTableWord 4 0xA = some (.cas32 0#32 0#32 0#32) ∧ decodeTableWord 16 0x0080 = some (.fblankBit 0x0080#16) ∧
      decodeTableWord 16 3 = some (.mode3 3#16) ∧
      decodeTableWord 16 0x8000 = some (.objShapeVertical 0#2) ∧ decodeTableWord 16 0x1234 = none := by decide

/-! ## Witnesses: for each statement with hypotheses, a state and operands that meet all of them; for a statement of
several clauses, one for each clause, at an end of its range. -/

/-- A literal memory that is canonical and inside the windows. -/
theorem memOk_of {s : State} {m : Memory} (h : s.mem = m) (hw : m.wf) (hi : ∀ c ∈ m, inWindow c.1 1 = true) : s.memOk :=
  ⟨h ▸ hw, h ▸ hi⟩

/-- The row of a colour. -/
theorem replicate_row {p : Half → Prop} {c : Half} (h : p c) :
    (List.replicate 240 c).length = 240 ∧ ∀ k ∈ List.replicate 240 c, p k :=
  ⟨List.length_replicate, fun k hk => by rw [(List.mem_replicate.1 hk).2]; exact h⟩

/-- Line 227 before S9: VCOUNT = 227, VBLANK_FLAG = 1, one frame counted. -/
def lateState : State :=
  { at0 [(0x04000004, 1#8), (0x04000006, 227#8)] 227#8 with
    phase := .s9, framesReady := 1, events := [.frameReady 1, .signal .vblank] }

/-- DecodeEncodeRoundTrip: operands at the ends of their ranges. -/
theorem test_witness_DecodeEncodeRoundTrip :
    WellFormed (.cas32 0xFFFFFFFF#32 0#32 0xFFFFFFFF#32) ∧ WellFormed (.objModeWindow 239#8 3#2 0x7FFF#15) ∧
      WellFormed (.effDarken 0xFFFF#16 239#8) := by decide

theorem test_witness_DecodedIsWellFormed : ∃ (bytes : List Byte) (i : Instr), decode bytes = .ok i :=
  ⟨row 0xD#8 0#8 0#8 0#8 [], .stop, rfl⟩

/-- StepRunsTheCommand: a command, and an operation on its own. -/
theorem test_witness_StepRunsTheCommand :
    (∃ (s : State) (bytes : List Byte) (rest : List Input) (i : Instr),
      decode bytes = .ok i ∧ isScript i = true ∧ s.schedule = .command bytes :: rest) ∧
    ∃ (s : State) (bytes : List Byte) (rest : List Input) (i : Instr),
      decode bytes = .ok i ∧ isScript i = false ∧ s.schedule = .operation bytes :: rest :=
  ⟨⟨{ State.reset with schedule := [.command (row 0xC#8 0#8 0#8 0#8 []), .engine] }, _, _, .line, rfl, rfl, rfl⟩,
    { State.reset with schedule := [.operation (row 0#8 2#8 7#8 0#8 [])] }, _, _, .objHidden, rfl, rfl, rfl⟩

/-- StepOtherMoves: the moves that can be taken, at the ends of their conditions, and a blocked Presenter with more of its
entries before an Engine move, before a command and before nothing. -/
theorem test_witness_StepOtherMoves :
    State.reset.schedule = [] ∧ (∃ s : State, s.schedule = [.engine]) ∧
      (∃ s : State, s.schedule = [.presenterWait] ∧ s.consumed < s.framesReady) ∧
      (∃ s : State, s.schedule = [.presenterRead 159 239] ∧ 0 < s.consumed) ∧
      (∃ s : State, s.schedule = [.presenterWait] ∧ s.framesReady ≤ s.consumed) ∧
      (∃ s : State, s.schedule = .presenterRead 0 0 :: [.presenterWait] ++ .engine :: [] ∧ s.consumed = 0) ∧
      ∃ (s : State) (bytes : List Byte), s.schedule = .presenterWait :: [.presenterRead 0 0] ++ .command bytes :: [] ∧
        s.framesReady ≤ s.consumed ∧ decode bytes = .ok .stop ∧ isScript .stop = true :=
  ⟨rfl, ⟨{ State.reset with schedule := [.engine] }, rfl⟩,
    ⟨{ State.reset with schedule := [.presenterWait], framesReady := 1 }, rfl, by decide⟩,
    ⟨{ State.reset with schedule := [.presenterRead 159 239], consumed := 1 }, rfl, by decide⟩,
    ⟨{ State.reset with schedule := [.presenterWait], framesReady := 1, consumed := 1 }, rfl, by decide⟩,
    ⟨{ State.reset with schedule := [.presenterRead 0 0, .presenterWait, .engine] }, rfl, rfl⟩,
    { State.reset with schedule := [.presenterWait, .presenterRead 0 0, .command (row 0xD#8 0#8 0#8 0#8 [])] }, _, rfl,
    by decide, rfl, rfl⟩

/-- StepKeepsInvariants: a state in the middle of a frame, and its step. -/
theorem test_witness_StepKeepsInvariants : lateState.Inv ∧ ∃ t, step lateState = .next t := by
  have hr : colourRow (List.replicate 240 0x8000#16) := replicate_row (.inl rfl)
  refine ⟨⟨⟨by decide, by decide⟩, by unfold State.lineOk; decide, ⟨hr, hr, hr, hr, hr, List.length_replicate, ?_⟩,
    ⟨List.length_replicate, ?_⟩, by unfold State.vcountOk; decide, by unfold State.flagsOk; decide, .inl rfl,
    by unfold State.framesOk; decide, List.prefix_refl _⟩, _, rfl⟩
  · intro i hi
    rw [(List.mem_replicate.1 hi).2]; rfl
  · intro r hi
    rw [(List.mem_replicate.1 hi).2]
    exact replicate_row (p := opaqueColour) (by unfold opaqueColour; decide)

/-- ReadTransactions, and the addresses of TransactionChecks: the ends of the windows and the misaligned forms. -/
theorem test_witness_ReadTransactions :
    ¬ insideWindow 0x04000060 1 ∧ insideWindow 0x0400005F 1 ∧ ¬ insideWindow 0x0400005F 2 ∧
      (insideWindow 0x06017FFD 2 ∧ 0x06017FFD % 2 ≠ 0) ∧ (insideWindow 0x06017FFE 2 ∧ 0x06017FFE % 2 = 0) ∧
      ¬ insideWindow 0x070003FD 4 ∧ (insideWindow 0x070003FB 4 ∧ 0x070003FB % 4 ≠ 0) ∧
      (insideWindow 0x070003FC 4 ∧ 0x070003FC % 4 = 0) :=
  ⟨by decide, by decide, by decide, ⟨by decide, by decide⟩, ⟨by decide, by decide⟩, by decide, ⟨by decide, by decide⟩,
    by decide, by decide⟩

/-- TransactionChecks: each of the five clauses has its schedule. -/
theorem test_witness_TransactionChecks :
    ∀ c ∈ [0x3#16, 0x7#16, 0xE#16, 0xF#16, 0x8#16, 0x9#16, 0xB#16, 0x0#16, 0x4#16, 0x1#16, 0x5#16, 0x2#16, 0x6#16, 0xA#16],
      ∃ s : State, s.schedule = [.command (busFrame c 0x04000060#32 0#32 0#32).bytes] :=
  fun c _ => ⟨{ State.reset with schedule := [.command (busFrame c 0x04000060#32 0#32 0#32).bytes] }, rfl⟩

/-- WriteTransactions: the memory, and through `busWriteDone` a refused, a misaligned and a performed write. -/
theorem test_witness_WriteTransactions :
    (at0 [(0x04000006, 5#8)] 5#8).memOk ∧ (at0 [(0x04000006, 5#8)] 5#8).monitorsOk ∧ ¬ insideWindow 0x04000060 1 ∧
      (insideWindow 0x0400002A 4 ∧ 0x0400002A % 4 ≠ 0) ∧ (insideWindow 0x0400002A 2 ∧ 0x0400002A % 2 = 0) :=
  ⟨⟨by decide, by decide⟩, List.prefix_refl _, by decide, by decide, by decide⟩

/-- CompareAndSet: the four clauses. -/
theorem test_witness_CompareAndSet :
    (at0 [(0x04000006, 5#8)] 5#8).memOk ∧ ¬ insideWindow 0x05000400 4 ∧
      (insideWindow 0x04000005 4 ∧ 0x04000005 % 4 ≠ 0) ∧ (insideWindow 0x04000004 4 ∧ 0x04000004 % 4 = 0) ∧
      (let m := (at0 [(0x04000006, 5#8)] 5#8).mem;
        let w := m.read 0x04000007 ++ m.read 0x04000006 ++ m.read 0x04000005 ++ m.read 0x04000004;
        w ≠ 0#32 ∧ w = 0x00050000#32) :=
  ⟨⟨by decide, by decide⟩, by decide, by decide, by decide, by decide⟩

theorem test_witness_WritesAnswerNothing :
    ∃ (s t : State) (a : Addr) (v : Byte), exec (.wr8 a v) s = .next t := ⟨State.reset, _, 0x04000060#32, 0#8, rfl⟩

/-- A state whose next move is a command of the code `c` at address 0. -/
def commanded (c : Byte) : State := { at0 [(0x04000004, 7#8)] 5#8 with schedule := [.command (row c 0#8 0#8 0#8 [])] }

/-- BusLeavesTheEngineAlone: a transaction; commands other than LINE, with a refused one, a write and STOP; a row that is no
command, given as one. -/
theorem test_witness_BusLeavesTheEngineAlone :
    (∃ s t : State, isBus (.wr16 0x04000004#32 0xFFFF#16) = true ∧ s.memOk ∧
      exec (.wr16 0x04000004#32 0xFFFF#16) s = .next t) ∧
    (∀ c ∈ [0x3#8, 0x5#8, 0xD#8], (commanded c).memOk ∧ decode (row c 0#8 0#8 0#8 []) ≠ .ok .line ∧
      ∃ t, step (commanded c) = .next t) ∧
    ∃ (s : State) (bytes : List Byte) (rest : List Input) (i : Instr),
      s.schedule = .command bytes :: rest ∧ decode bytes = .ok i ∧ isScript i = false := by
  refine ⟨⟨at0 [(0x04000004, 7#8)] 5#8, _, rfl, ⟨by decide, by decide⟩, rfl⟩, fun c hc => ⟨?_, ?_, ?_⟩,
    { State.reset with schedule := [.command (row 0#8 2#8 7#8 0#8 [])] }, _, _, .objHidden, rfl, rfl, rfl⟩
  · exact memOk_of (m := [(0x04000004, 7#8)]) rfl (by decide) (by decide)
  · rw [List.mem_cons, List.mem_cons, List.mem_singleton] at hc
    rcases hc with rfl | rfl | rfl <;> exact fun h => by cases h
  · rw [List.mem_cons, List.mem_cons, List.mem_singleton] at hc
    rcases hc with rfl | rfl | rfl <;> exact ⟨_, rfl⟩

/-- MonitorRegistration: a schedule of every agent's moves, and its step. -/
theorem test_witness_MonitorRegistration :
    ∃ s t : State, s.isRun ∧ step s = .next t ∧ s.schedule ≠ [] :=
  ⟨{ State.reset with schedule := [.presenterWait, .engine, .command (row 0xC#8 0#8 0#8 0#8 [])] }, _, by
    unfold State.isRun; simp, rfl, by simp⟩

/-- A running Engine in phase `p` of line `l`. -/
def atPhase (p : Phase) (l : BitVec 8) : State := { at0 [(0x04000004, 8#8)] l with phase := p }

/-- Its memory is canonical. -/
theorem atPhase_memOk (p : Phase) (l : BitVec 8) : (atPhase p l).memOk :=
  memOk_of (m := [(0x04000004, 8#8)]) rfl (by decide) (by decide)

theorem test_witness_EngineS1 :
    (atPhase .s1 227#8).memOk ∧ (atPhase .s1 227#8).running = true ∧ (atPhase .s1 227#8).phase = .s1 :=
  ⟨atPhase_memOk _ _, rfl, rfl⟩

/-- EngineS3: the last visible line and the first of VBLANK. -/
theorem test_witness_EngineS3 :
    ((atPhase .s3 159#8).running = true ∧ (atPhase .s3 159#8).phase = .s3 ∧ (atPhase .s3 159#8).line.toNat < 160) ∧
      (atPhase .s3 160#8).running = true ∧ (atPhase .s3 160#8).phase = .s3 ∧ 160 ≤ (atPhase .s3 160#8).line.toNat := by
  decide

/-- EngineS4: line 160 and its two neighbours. -/
theorem test_witness_EngineS4 :
    ∀ l ∈ [159#8, 160#8, 161#8],
      (atPhase .s4 l).running = true ∧ (atPhase .s4 l).phase = .s4 ∧ ((atPhase .s4 l).line = 160#8 ↔ l = 160#8) := by decide

theorem test_witness_EngineWaits :
    (atPhase .s5 0#8).running = true ∧ (atPhase .s5 0#8).phase = .s5 ∧ (atPhase .s7 0#8).running = true ∧
      (atPhase .s7 0#8).phase = .s7 := by decide

/-- EngineS6 and EngineS8. -/
theorem test_witness_EngineS6_S8 :
    ((atPhase .s6 159#8).memOk ∧ (atPhase .s6 159#8).running = true ∧ (atPhase .s6 159#8).phase = .s6) ∧
      (atPhase .s8 160#8).memOk ∧ (atPhase .s8 160#8).running = true ∧ (atPhase .s8 160#8).phase = .s8 :=
  ⟨⟨atPhase_memOk _ _, rfl, rfl⟩, atPhase_memOk _ _, rfl, rfl⟩

/-- EngineS9AndStop: lines 226 and 227, another phase, and a stopped Engine. -/
theorem test_witness_EngineS9AndStop :
    ((atPhase .s9 226#8).running = true ∧ (atPhase .s9 226#8).phase = .s9 ∧ (atPhase .s9 226#8).line.toNat < 227) ∧
      ((atPhase .s9 227#8).running = true ∧ (atPhase .s9 227#8).phase = .s9 ∧ (atPhase .s9 227#8).line = 227#8) ∧
      (atPhase .s3 227#8).phase ≠ .s9 ∧ { atPhase .s1 0#8 with running := false }.running = false := by decide

theorem test_witness_EngineS2 :
    ∃ s : State, s.memOk ∧ s.running = true ∧ s.phase = .s2 ∧ s.flagsOk ∧ s.lineOk ∧ 228 ≤ s.lyc.toNat :=
  ⟨{ at0 [(0x04000005, 228#8)] 227#8 with phase := .s2 }, ⟨by decide, by decide⟩, rfl, rfl,
    by unfold State.flagsOk; decide, by unfold State.lineOk; decide, by decide⟩

/-- LineIsNineSubSteps, LineTrace, LineEndState, LineMovesAccumulators: the starts of the lines at which their clauses
meet. -/
theorem test_witness_Line :
    (atPhase .s1 159#8).memOk ∧ (atPhase .s1 160#8).memOk ∧ (atPhase .s1 161#8).memOk ∧ (atPhase .s1 227#8).memOk ∧
      (∀ l ∈ [159#8, 160#8, 161#8, 227#8], (atPhase .s1 l).atLine ∧ (atPhase .s1 l).line.toNat < 228) ∧
      (atPhase .s1 159#8).line.toNat < 160 ∧ (atPhase .s1 160#8).line = 160#8 ∧
      160 < (atPhase .s1 161#8).line.toNat ∧ (atPhase .s1 227#8).line = 227#8 :=
  ⟨atPhase_memOk _ _, atPhase_memOk _ _, atPhase_memOk _ _, atPhase_memOk _ _, by decide, by decide, by decide,
    by decide, by decide⟩

/-- AccumulatorInvariant: all 160 lines of a frame. -/
theorem test_witness_AccumulatorInvariant :
    ∃ s : State, s.memOk ∧ s.atLine ∧ s.line.toNat + 160 ≤ 160 ∧ s.linesScheduled 160 :=
  ⟨{ at0 [(0x04000023, 1#8)] 0#8 with schedule := List.replicate 160 (.command (encode .line)) },
    ⟨by decide, by decide⟩, ⟨rfl, rfl⟩, by decide, rfl⟩

theorem test_witness_FrameTrace :
    ∃ s : State, s.memOk ∧ s.atLine ∧ s.line = 0#8 ∧ s.linesScheduled 228 :=
  ⟨{ at0 [(0x04000004, 0x38#8)] 0#8 with schedule := List.replicate 228 (.command (encode .line)) },
    ⟨by decide, by decide⟩, ⟨rfl, rfl⟩, rfl, rfl⟩

/-- UnselectedRows: the line rows at the ends of their lines, and each window row at a pixel of window 0, 1, the object
window or the outside that it does not own. -/
theorem test_witness_UnselectedRows :
    (160 ≤ (at0 [] 160#8).line.toNat ∧ (at0 [] 159#8).line ≠ 160#8 ∧ (at0 [] 160#8).line.toNat ≤ 160) ∧
    (let in0 := fun x => (reg16 winMem 0x000).getLsbD 13 = true ∧ rectHolds (reg16 winMem 0x040) (reg16 winMem 0x044) x 159;
      (reg16 winMem 0x000).toNat / 8192 ≠ 0 ∧ in0 79 ∧ ¬ in0 80 ∧
        ¬ (reg16 winMem 0x000).getLsbD 14 = true ∧ ¬ (reg16 winMem 0x000).getLsbD 15 = true) ∧
    (let m : Memory := [(0x04000001, 0x41#8), (0x04000042, 0xF0#8), (0x04000046, 0xA0#8)];
      (reg16 m 0x000).getLsbD 14 = true ∧ rectHolds (reg16 m 0x042) (reg16 m 0x046) 239 159) ∧
    ((reg16 [(0x04000001, 0x81#8)] 0x000).getLsbD 15 = true ∧ (infoOf 1#2 2#2).mode = 2#2) ∧
    (reg16 [] 0x000).toNat / 8192 = 0 ∧ { semiState 0#2 with winFx := false }.winFx ≠ true ∧
    (candidates (semiState 1#2).mem (semiState 1#2).winMask (columnOf (semiState 1#2) 7)).first.id ≠ .obj := by decide

/-- ModeSelector: a DISPCNT for each row of the table, on line 159. -/
theorem test_witness_ModeSelector :
    (at0 [] 159#8).line.toNat < 160 ∧
      ∀ d ∈ [0x00#8, 0x01#8, 0x02#8, 0x03#8, 0x04#8, 0x05#8, 0x06#8, 0x80#8, 0x87#8, 0x07#8],
        reg16 (at0 [(0x04000000, d)] 159#8).mem 0x000 = 0#8 ++ d := by decide

theorem test_witness_ForcedBlank :
    (at0 [(0x04000000, 0x80#8)] 159#8).line.toNat < 160 ∧ (reg16 [(0x04000000, 0x80#8)] 0x000).getLsbD 7 = true ∧
      (reg16 [(0x04000000, 0x06#8)] 0x000).toNat % 8 = 6 := by decide

/-- UndefinedRows, ModeLayers, TextLayers, AffineLayers, BitmapLayers: the last visible line. -/
theorem test_witness_visible : (at0 [] 159#8).line.toNat < 160 := by decide

/-- ModeRows: both clauses, a line with no prohibited record and one with. -/
theorem test_witness_ModeRows :
    (at0 [] 159#8).line.toNat < 160 ∧ (spritePass [] 0x0F00#16 159).prohibited = false ∧
      (spritePass [(0x07000001, 0x0C#8)] 0x1F00#16 159).prohibited = true := by decide

theorem test_witness_RowDependsOnTheSnapshotOnly :
    ∃ s u : State, s.line.toNat < 160 ∧ s.mem = u.mem ∧ s.line = u.line ∧ s.acc0 = u.acc0 ∧ s.acc1 = u.acc1 ∧
      s.draws = u.draws ∧ s.fb.length = u.fb.length ∧ s.lb0 ≠ u.lb0 :=
  ⟨at0 [(0x04000001, 1#8)] 159#8, { at0 [(0x04000001, 1#8)] 159#8 with lb0 := [] },
    by decide, rfl, rfl, rfl, rfl, rfl, rfl, by simp [at0, State.reset]⟩

theorem test_witness_NothingEnabledShowsBackdrop :
    ∃ s : State, s.line.toNat < 160 ∧ reg16 s.mem 0x000 &&& 0xFF80#16 = 0#16 ∧ (reg16 s.mem 0x000).toNat % 8 ≤ 2 ∧
      reg16 s.mem 0x050 &&& 0x00C0#16 = 0#16 :=
  ⟨at0 [(0x04000000, 2#8), (0x04000050, 0x3F#8), (0x05000000, 0x21#8)] 159#8, by decide, by decide, by decide, by decide⟩

theorem test_witness_TextCoordinates : (3 : Nat) < 4 := by decide

/-- BitmapPixels: the last pixel of the two bitmaps of fixed size and the first outside, and a mode 4 byte inside and
outside VRAM. -/
theorem test_witness_BitmapPixels :
    ((239#32).toNat < 240 ∧ (159#32).toNat < 160 ∧ (127#32).toNat < 128 ∧ 1 * 0xA000 + 0xDFFF < 0x18000) ∧
      ¬ (240#32).toNat < 240 ∧ ¬ (160#32).toNat < 160 ∧ ¬ (128#32).toNat < 128 ∧ ¬ 1 * 0xA000 + 0xE000 < 0x18000 := by decide

/-- BitmapLayers: with the identity matrix, the origin at the top left, a column inside each bitmap and one outside. -/
theorem test_witness_BitmapLayers :
    let s := { at0 [(0x04000021, 1#8)] 127#8 with acc0 := { x := 0#28, y := 0x7F00#28 } }
    let ix : Nat → Int := fun x => (s.acc0.x.toInt + x * (reg16 s.mem 0x020).toInt + 128) / 256
    let iy : Nat → Int := fun x => (s.acc0.y.toInt + x * (reg16 s.mem 0x024).toInt + 128) / 256
    s.line.toNat < 160 ∧ (ix 239 = 239 ∧ iy 239 = 127) ∧ (ix 159 = 159 ∧ ix 160 = 160) ∧
      { s with acc0 := { x := -0x100#28, y := 0#28 } }.acc0.x.toInt = -256 := by decide

/-- Mode3ShowsTheBitmap, with the hypotheses of its row of the frame buffer. -/
theorem test_witness_Mode3ShowsTheBitmap :
    ∃ (s : State) (d : Half), s.line.toNat < 160 ∧ reg16 s.mem 0x020 = 0x0100#16 ∧ reg16 s.mem 0x024 = 0#16 ∧
      (bgCnt s.mem 2).getLsbD 6 = false ∧ s.acc0.x = 0#28 ∧ s.acc0.y = BitVec.ofNat 28 (256 * s.line.toNat) ∧
      d.toNat / 4096 = 0 ∧ reg16 s.mem 0x050 &&& 0x00C0#16 = 0#16 :=
  ⟨{ at0 [(0x04000021, 1#8)] 159#8 with acc0 := { x := 0#28, y := 0x9F00#28 } }, 0x0F03#16,
    by decide, by decide, by decide, by decide, rfl, by decide, by decide, by decide⟩

/-- SpritePixelWrites: column 239, an equal priority and a worse one; and column 240. -/
theorem test_witness_SpritePixelWrites :
    State.reset.lb5[(239#8).toNat]? = some { prio := 3#2, mode := 0#2, semi := false } ∧ (239#8).toNat < 240 ∧
      (239#8).toNat < State.reset.lb4.length ∧ (3#2).toNat ≤ (3#2).toNat ∧ (2#2).toNat < (3#2).toNat ∧
      240 ≤ (240#8).toNat := by
  refine ⟨rfl, by decide, ?_, by decide, by decide, by decide⟩
  show 239 < (List.replicate 240 0x8000#16).length
  rw [List.length_replicate]; decide

/-- SpritePassColumns: sprites off, a prohibited record 127, and no prohibited record. -/
theorem test_witness_SpritePassColumns :
    (239 : Nat) < 240 ∧ (0x0F00#16).getLsbD 12 = false ∧ (0x1000#16).getLsbD 12 = true ∧
      (∃ r, r < 128 ∧
        (let a0 := Memory.load16 [(0x070003F9, 0x0C#8)] (0x07000000 + 8 * r);
          a0.toNat / 256 % 4 ≠ 2 ∧ (a0.toNat / 1024 % 4 = 3 ∨ a0.toNat / 16384 = 3))) ∧
      ¬ ∃ r, r < 128 ∧
        (let a0 := Memory.load16 [] (0x07000000 + 8 * r);
          a0.toNat / 256 % 4 ≠ 2 ∧ (a0.toNat / 1024 % 4 = 3 ∨ a0.toNat / 16384 = 3)) := by
  refine ⟨by decide, by decide, by decide, ⟨127, by decide⟩, ?_⟩
  simp [Memory.load16]

/-- SpriteRecordHits: a hidden record; a regular one that misses the line (ry = 8); one that shows its last texel; a
double-size one whose texel is outside the sprite (column 3) and inside it (column 4), with set 0 the identity. -/
theorem test_witness_SpriteRecordHits :
    (let a0 := Memory.load16 [(0x07000001, 2#8)] 0x07000000;
      a0.toNat / 256 % 4 = 2) ∧
    (let a0 := Memory.load16 [] 0x07000000;
      a0.toNat / 256 % 4 ≠ 2 ∧ a0.toNat / 16384 ≠ 3 ∧ ¬ ((8 : Int) - (a0.toNat % 256 : Nat)) % 256 < 8 ∧
        ((7 : Int) - (a0.toNat % 256 : Nat)) % 256 < 8) ∧
    (let a1 := Memory.load16 [] 0x07000002;
      a1.toNat / 16384 = 0 ∧ 0 ≤ (7 : Int) - (a1.extractLsb' 0 9).toInt ∧ (7 : Int) - (a1.extractLsb' 0 9).toInt < 8) ∧
    (let m : Memory := [(0x07000001, 3#8), (0x07000007, 1#8), (0x0700001F, 1#8)];
      let par : Nat → Int := fun j => (m.load16 (0x07000006 + 8 * j)).toInt;
      let tx : Int → Int := fun bx => (par 0 * (bx - 8) + par 1 * (4 - 8)) / 256 + 4;
      (m.load16 0x07000000).toNat / 256 % 4 = 3 ∧ tx 3 = -1 ∧ tx 4 = 0 ∧
        (par 2 * (4 - 8) + par 3 * (4 - 8)) / 256 + 4 = 0) := by decide

/-- WindowControls and WindowRows: each owner, at the edges of window 0 of W4 and of window 1 of W5. -/
theorem test_witness_Windows :
    (reg16 [] 0x000).toNat / 8192 = 0 ∧
    ((reg16 winMem 0x000).getLsbD 13 = true ∧ rectHolds (reg16 winMem 0x040) (reg16 winMem 0x044) 79 159) ∧
    ((reg16 winMem 0x000).toNat / 8192 ≠ 0 ∧ ¬ rectHolds (reg16 winMem 0x040) (reg16 winMem 0x044) 80 159 ∧
      (reg16 winMem 0x000).getLsbD 14 = false ∧ (reg16 winMem 0x000).getLsbD 15 = false) ∧
    (let m : Memory := [(0x04000001, 0x41#8), (0x04000042, 0xF0#8), (0x04000046, 0xA0#8)];
      (reg16 m 0x000).getLsbD 13 = false ∧ (reg16 m 0x000).getLsbD 14 = true ∧
        rectHolds (reg16 m 0x042) (reg16 m 0x046) 239 159) ∧
    (let m : Memory := [(0x04000001, 0x81#8)];
      (reg16 m 0x000).getLsbD 13 = false ∧ (reg16 m 0x000).getLsbD 14 = false ∧ (reg16 m 0x000).getLsbD 15 = true ∧
        (infoOf 1#2 2#2).mode = 2#2) := by decide

/-- CandidatesAreFrontmost: its list of shown layers with none, one and two of them, and a tie of two behind the first. -/
theorem test_witness_CandidatesAreFrontmost :
    let shown := fun (mask : BitVec 5) => [LayerId.bg3, .bg2, .bg1, .bg0, .obj].filter fun id => mask.getLsbD (layerIndex id)
    (shown 0#5 = [] ∧ (shown 8#5).length ≤ 1 ∧ 2 ≤ (shown 9#5).length) ∧
      (let r := candidates [(0x0400000A, 1#8), (0x0400000C, 1#8)] 7#5
          (column 1#16 1#16 1#16 0x8000#16 0x8000#16 (infoOf 3#2 0#2));
        r.first.id = .bg0 ∧ r.second.id = .bg1 ∧ r.second.p = 1#2) := by decide

/-- EffectPixels: the last pixel of the screen, and a forced blend at column 7. -/
theorem test_witness_EffectPixels :
    (at0 [] 159#8).line.toNat < 160 ∧ (239#8).toNat < 240 ∧
      (let s := semiState 0#2;
        s.line.toNat < 160 ∧ s.winFx = true ∧ (candidates s.mem s.winMask (columnOf s 7)).first.id = .obj ∧
          (columnOf s 7).info.mode = 1#2) := by decide

/-- ComposedPixels: the last visible line and column, a mode row, and a pass with no prohibited record. -/
theorem test_witness_ComposedPixels :
    (at0 [] 159#8).line.toNat < 160 ∧ (at0 [] 159#8).line.toNat < (at0 [] 159#8).fb.length ∧
      Instr.mode5 0x1F05#16 ∈ [Instr.mode0 0x1F05#16, .mode1 0x1F05#16, .mode2 0x1F05#16, .mode3 0x1F05#16, .mode4 0x1F05#16,
        .mode5 0x1F05#16] ∧
      (spritePass (at0 [] 159#8).mem 0x1F05#16 159).prohibited = false ∧ 239 < 240 := by
  refine ⟨by decide, ?_, by decide, by decide, by decide⟩
  show 159 < (List.replicate 160 (List.replicate 240 0x0000#16)).length
  rw [List.length_replicate]; decide

theorem test_witness_EffectChannels : (16 : Nat) ≤ 16 := by decide

theorem test_witness_EffectIdentities : opaqueColour 0x7FFF#16 := by unfold opaqueColour; decide

end Sys2Proof.Tests
end

section
/-! ## Proofs of the statements about steps, the row of a line and the state after construction -/

namespace Sys2Proof.Machine

/-! ### The choice of a move while the Presenter is blocked (10_state.md R134, log entries 1 and 15) -/

/-- The Presenter at an entry it cannot take: a wait with no frame that it has not consumed, or a read before any wait
has ended. -/
theorem canMove_of_blocked {s : State} {p : Input}
    (h : (p = .presenterWait ∧ s.framesReady ≤ s.consumed) ∨ ((∃ y x, p = .presenterRead y x) ∧ s.consumed = 0)) :
    canMove s p = false := by
  rcases h with ⟨rfl, hw⟩ | ⟨⟨y, x, rfl⟩, hr⟩
  · simpa [canMove] using hw
  · simpa [canMove] using hr

/-- Waits and reads are entries of the Presenter. -/
theorem ofPresenter_of_wait_or_read {e : Input} (h : e = .presenterWait ∨ ∃ y x, e = .presenterRead y x) :
    ofPresenter e = true := by
  rcases h with rfl | ⟨y, x, rfl⟩ <;> rfl

/-- With an entry at the head that cannot move, the choice falls on the first entry of another agent. -/
theorem nextMove_blocked {s : State} {p : Input} {l : List Input} (hs : s.schedule = p :: l) (h : canMove s p = false) :
    nextMove s = firstOther (p :: l) := by
  simp [nextMove, hs, h]

/-- The entries of a Presenter that is blocked at the first of them are all of its own. -/
theorem ofPresenter_of_blocked_cons {s : State} {p : Input} {ps : List Input} (h : canMove s p = false)
    (hps : ∀ e ∈ ps, ofPresenter e = true) : ∀ e ∈ p :: ps, ofPresenter e = true :=
  List.forall_mem_cons.2 ⟨ofPresenter_of_blocked h, hps⟩

/-- With nothing scheduled but the entries of a blocked Presenter, the Engine moves and they stay. -/
theorem step_blocked_alone {s : State} {p : Input} {ps : List Input} (hs : s.schedule = p :: ps)
    (h : canMove s p = false) (hps : ∀ e ∈ ps, ofPresenter e = true) : step s = .next (engineStep s) :=
  step_idle ((nextMove_blocked hs h).trans (firstOther_none (ofPresenter_of_blocked_cons h hps)))

/-- Another agent goes on past the entries of a blocked Presenter, which stay in their order. -/
theorem step_past_blocked {s : State} {p e : Input} {ps rest : List Input} (hs : s.schedule = p :: ps ++ e :: rest)
    (h : canMove s p = false) (hps : ∀ q ∈ ps, ofPresenter q = true) (he : ofPresenter e = false) :
    step s = performMove e { s with schedule := p :: ps ++ rest } :=
  step_move ((nextMove_blocked hs h).trans (firstOther_append (ofPresenter_of_blocked_cons h hps) he))

/-- The head of the schedule is performed where it can move. -/
theorem step_head {s : State} {e : Input} {rest : List Input} (hs : s.schedule = e :: rest) (h : canMove s e = true) :
    step s = performMove e { s with schedule := rest } :=
  step_move (nextMove_head hs h)

/-- Settles O6: the entries that can move by `step_head`, those behind a blocked Presenter by `step_past_blocked`. -/
theorem stepOtherMoves : Obligations.StepOtherMoves := by
  intro s rest blockedAt
  refine ⟨fun hs => step_idle (by simp [nextMove, hs]), fun hs => step_head hs rfl,
    fun hs hw => step_head hs (by simpa [canMove] using hw), fun y x hs hr => step_head hs (by simpa [canMove] using hr),
    fun p ps hp hps => ?_⟩
  have hblocked : canMove s p = false := canMove_of_blocked hp
  have hown : ∀ e ∈ ps, ofPresenter e = true := fun e he => ofPresenter_of_wait_or_read (hps e he)
  refine ⟨fun hs => step_blocked_alone hs hblocked hown, fun hs => step_past_blocked hs hblocked hown rfl,
    fun bytes i hd hi hs => ?_⟩
  exact (step_past_blocked hs hblocked hown rfl).trans (command_ok hd hi)

/-! ### What the row of a line is made from (10_state.md R131, 42_backgrounds.md R600) -/

/-- Two states agree on what the render of a line reads: the snapshot, the line, the accumulators and the draws. -/
structure RenderInputsAgree (s u : State) : Prop where
  mem : s.mem = u.mem
  line : s.line = u.line
  acc0 : s.acc0 = u.acc0
  acc1 : s.acc1 = u.acc1
  draws : s.draws = u.draws

/-- The operation `f` puts one and the same row at `y` into the frame buffers of `s` and of `u`. -/
def WritesSameRow (y : Nat) (f : State → State) (s u : State) : Prop :=
  ∃ row, (f s).fb = s.fb.set y row ∧ (f u).fb = u.fb.set y row

/-- Then that row reads the same in both, if both have it or both lack it. -/
theorem WritesSameRow.getElem?_eq {y : Nat} {f : State → State} {s u : State} (h : WritesSameRow y f s u)
    (hlen : s.fb.length = u.fb.length) : (f s).fb[y]? = (f u).fb[y]? := by
  obtain ⟨row, hs, hu⟩ := h
  rw [hs, hu]
  simp [List.getElem?_set, hlen]

/-- After the layers and the sprite pass of a line, no column of the line buffers holds a value of before. -/
theorem columnOf_rendered_eq (m : Memory) (d : Half) (l : Nat) (ks : LayerKinds) (cells : List SpriteCell) {s u : State}
    (h : RenderInputsAgree s u) :
    columnOf (setSprites cells (renderLayers m d l ks s)) = columnOf (setSprites cells (renderLayers m d l ks u)) := by
  funext x
  simp [columnOf, renderLayers, h.acc0, h.acc1, h.draws]

/-- The row of a forced blank (42_backgrounds.md R608). -/
theorem whiteRow_writesSameRow {s u : State} (h : RenderInputsAgree s u) : WritesSameRow s.line.toNat whiteRow s u :=
  ⟨List.replicate 240 0x7FFF#16, rfl, by rw [h.line]; rfl⟩

/-- The row of draws of a visible line (R609). -/
theorem undefinedRow_writesSameRow {s u : State} (h : RenderInputsAgree s u) (hv : s.line.toNat < 160) :
    WritesSameRow s.line.toNat undefinedRow s u := by
  have hu : u.line.toNat < 160 := h.line ▸ hv
  refine ⟨drawRow s.draws, ?_, ?_⟩
  · simp [undefinedRow, onVisible_of_lt hv]
  · simp [undefinedRow, onVisible_of_lt hu, h.line, h.draws]

/-- The frame buffer after a mode 0 to 5 (R600): row `l` is a row of draws while a prohibited record stands, else the row
composed from the line buffers that the layers and the sprite pass leave. -/
theorem modeRow_fb (m : Memory) (d : Half) (l : Nat) (ks : LayerKinds) (s : State) :
    (modeRow m d l ks s).fb = s.fb.set l
      (if (spritePass m d l).prohibited then drawRow (s.draws + 960)
      else columns fun x =>
        composePixel m d l x (columnOf (setSprites (spritePass m d l).cells (renderLayers m d l ks s)) x)) := by
  unfold modeRow
  dsimp only
  split <;> rfl

/-- The row of a mode 0 to 5. -/
theorem modeRow_writesSameRow (m : Memory) (d : Half) (l : Nat) (ks : LayerKinds) {s u : State}
    (h : RenderInputsAgree s u) : WritesSameRow l (modeRow m d l ks) s u :=
  ⟨_, modeRow_fb m d l ks s, by rw [modeRow_fb, columnOf_rendered_eq m d l ks _ h, h.draws]⟩

/-- The row of the operation that DISPCNT selects (R601). -/
theorem effectiveRow_writesSameRow (d : Half) {s u : State} (h : RenderInputsAgree s u) (hv : s.line.toNat < 160) :
    WritesSameRow s.line.toNat (effectiveRow d) s u := by
  have mode : ∀ kinds : Memory → LayerKinds,
      WritesSameRow s.line.toNat (fun t => modeRow (snapshot t) d t.line.toNat (kinds (snapshot t)) t) s u := by
    intro kinds
    have hrow := modeRow_writesSameRow s.mem d s.line.toNat (kinds s.mem) h
    simpa only [WritesSameRow, snapshot, ← h.mem, ← h.line] using hrow
  unfold effectiveRow
  split
  · exact whiteRow_writesSameRow h
  · split
    · exact mode kindsMode0
    · exact mode kindsMode1
    · exact mode kindsMode2
    · exact mode fun _ => kindsBitmap .bitmap3
    · exact mode fun _ => kindsBitmap .bitmap4
    · exact mode fun _ => kindsBitmap .bitmap5
    · exact whiteRow_writesSameRow h
    · exact undefinedRow_writesSameRow h hv

/-- A row operation leaves the accumulators alone. -/
theorem RowOnly.acc_eq {s t : State} (h : RowOnly s t) : t.acc0 = s.acc0 ∧ t.acc1 = s.acc1 := by
  unfold RowOnly at h
  exact ⟨(congrArg State.acc0 h :), (congrArg State.acc1 h :)⟩

/-- The accumulators after a line: those before it, advanced (R620). -/
theorem renderLine_acc (s : State) :
    (renderLine s).acc0 = advanceAcc s.mem 0#1 s.acc0 ∧ (renderLine s).acc1 = advanceAcc s.mem 1#1 s.acc1 := by
  obtain ⟨h0, h1⟩ := (effectiveRow_frame (reg16 (snapshot s) 0x000) s).acc_eq
  exact ⟨congrArg (advanceAcc s.mem 0#1) h0, congrArg (advanceAcc s.mem 1#1) h1⟩

/-- The line render puts the same row into both frame buffers (R600). -/
theorem renderLine_writesSameRow {s u : State} (h : RenderInputsAgree s u) (hv : s.line.toNat < 160) :
    WritesSameRow s.line.toNat renderLine s u := by
  have hrow := effectiveRow_writesSameRow (reg16 s.mem 0x000) h hv
  simpa only [WritesSameRow, renderLine, advanceAccumulators_fb, snapshot, ← h.mem] using hrow

/-- Settles O38: the row is the same by `renderLine_writesSameRow`, the accumulators by `renderLine_acc`. -/
theorem rowDependsOnTheSnapshotOnly : Obligations.RowDependsOnTheSnapshotOnly := by
  intro s u hv hmem hline hacc0 hacc1 hdraws hlen
  have hagree : RenderInputsAgree s u := ⟨hmem, hline, hacc0, hacc1, hdraws⟩
  obtain ⟨hs0, hs1⟩ := renderLine_acc s
  obtain ⟨hu0, hu1⟩ := renderLine_acc u
  refine ⟨(renderLine_writesSameRow hagree hv).getElem?_eq hlen, ?_, ?_⟩
  · rw [hs0, hu0, hmem, hacc0]
  · rw [hs1, hu1, hmem, hacc1]

/-! ### The state after construction (10_state.md R160) -/

/-- A line buffer that is TRANSPARENT in all 240 columns has its shape. -/
theorem colourRow_transparent : colourRow (List.replicate 240 transparent) :=
  ⟨List.length_replicate, fun _ hc => .inl (List.eq_of_mem_replicate hc)⟩

/-- A row of 240 black pixels has its shape. -/
theorem pixelRow_black : pixelRow (List.replicate 240 0x0000#16) :=
  ⟨List.length_replicate, fun _ hc => List.eq_of_mem_replicate hc ▸ rfl⟩

/-- The line buffers of reset have their shape (R131, R132, log entry 10). -/
theorem reset_buffersOk : State.reset.buffersOk :=
  ⟨colourRow_transparent, colourRow_transparent, colourRow_transparent, colourRow_transparent, colourRow_transparent,
    List.length_replicate, fun _ hi => List.eq_of_mem_replicate hi ▸ rfl⟩

/-- The frame buffer of reset has its shape (R133). -/
theorem reset_frameOk : State.reset.frameOk :=
  ⟨List.length_replicate, fun _ hrow => List.eq_of_mem_replicate hrow ▸ pixelRow_black⟩

/-- Settles O8: memory is empty, so every register is 0, and the Engine runs at S1 of line 0. -/
theorem resetInvariant : Obligations.ResetInvariant where
  mem := ⟨⟨.nil, List.forall_mem_nil _⟩, List.forall_mem_nil _⟩
  line := (by decide : (0#8).toNat < 228)
  buffers := reset_buffersOk
  frame := reset_frameOk
  vcount := ⟨by decide, nofun⟩
  flags := ⟨rfl, nofun⟩
  stop := .inl rfl
  frames := ⟨rfl, Nat.le_refl 0⟩
  monitors := ⟨[], List.append_nil _⟩

/-- Settles O7: each value is the field of `State.reset`. -/
theorem resetState : Obligations.ResetState :=
  ⟨fun _ => rfl, rfl, rfl, rfl, rfl, rfl, rfl, rfl, rfl, rfl, rfl, rfl, rfl⟩

end Sys2Proof.Machine
end

section
/-! ## Proofs of the statements about what a step and a line render keep (20_memory.md R200, R208) -/

namespace Sys2Proof.Machine

/-! ### Stores inside a window (20_memory.md R200) -/

/-- A store to bytes of a window keeps the memory canonical and inside the windows. -/
theorem store_memOk {s : State} {a : Nat} {w : Width} (v : Word) (h : s.memOk) (ha : inWindow a (widthBytes w) = true) :
    ({ s with mem := s.mem.store a w v } : State).memOk := by
  obtain ⟨hwf, hin⟩ := h
  refine ⟨Memory.store_wf a w v hwf, fun c hc => ?_⟩
  rcases Memory.mem_store hc with hrange | hold
  · rw [inWindow_iff] at ha ⊢
    omega
  · exact hin c hold

/-! ### What the invariants read in DISPSTAT and VCOUNT (10_state.md R112, R113) -/

/-- HBLANK_FLAG is bit 1 of its byte. -/
theorem hblankFlag_statusWord (m : Memory) : hblankFlag (statusWord m) = (m.read 0x04000004).getLsbD 1 :=
  statusWord_bit m 1 (by decide)

/-- VBLANK_FLAG is bit 0 of its byte. -/
theorem vblankFlag_statusWord (m : Memory) : vblankFlag (statusWord m) = (m.read 0x04000004).getLsbD 0 :=
  statusWord_bit m 0 (by decide)

/-- VCOUNT by its two bytes. -/
theorem vcount_eq_of_read {m n : Memory} (h6 : n.read 0x04000006 = m.read 0x04000006)
    (h7 : n.read 0x04000007 = m.read 0x04000007) : vcount n = vcount m :=
  congrArg₂ (fun hi lo : Byte => hi ++ lo) h7 h6

/-- `n` holds the VCOUNT, the HBLANK_FLAG and the VBLANK_FLAG of `m`. -/
structure StatusKept (m n : Memory) : Prop where
  vcount : vcount n = vcount m
  hblank : hblankFlag (statusWord n) = hblankFlag (statusWord m)
  vblank : vblankFlag (statusWord n) = vblankFlag (statusWord m)

/-- The invariants of VCOUNT and of the flags speak of nothing else in memory. -/
theorem StatusKept.vcountOk_flagsOk {s : State} {m : Memory} (hk : StatusKept s.mem m) (h : s.Inv) :
    ({ s with mem := m } : State).vcountOk ∧ ({ s with mem := m } : State).flagsOk := by
  unfold State.vcountOk State.flagsOk
  rw [hk.vcount, hk.hblank, hk.vblank]
  exact ⟨h.vcount, h.flags⟩

/-! ### Bus writes leave VCOUNT and the flags alone (40_register_interface.md R407) -/

/-- After a bus store a byte is as before, or what WriteMask makes of the byte given for it. -/
theorem busStore_read (addr : Addr) (w : Width) (v : Word) {s : State} (hm : s.mem.wf) (x : Nat) :
    (busStore addr w v s).mem.read x = s.mem.read x ∨
      ∃ b, (busStore addr w v s).mem.read x = maskedByte s.mem x b := by
  rw [busStore_mem]
  by_cases hx : x < addr.toNat ∨ addr.toNat + widthBytes w ≤ x
  · exact .inl (Memory.read_store_other _ _ _ _ _ hx)
  · obtain ⟨k, rfl⟩ : ∃ k, x = addr.toNat + k := ⟨x - addr.toNat, by omega⟩
    have hk : k < widthBytes w := by omega
    have hw : widthBytes w ≤ 4 := by cases w <;> decide
    refine .inr ⟨byteOf v k, ?_⟩
    rw [Memory.read_store_same _ _ _ _ _ hm hk]
    obtain rfl | rfl | rfl | rfl : k = 0 ∨ k = 1 ∨ k = 2 ∨ k = 3 := by omega
    · exact byteOf_word4_0 _ _ _ _
    · exact byteOf_word4_1 _ _ _ _
    · exact byteOf_word4_2 _ _ _ _
    · exact byteOf_word4_3 _ _ _ _

/-- WriteMask keeps both bytes of VCOUNT. -/
theorem maskedByte_vcount (m : Memory) {x : Nat} (hx : x = 0x04000006 ∨ x = 0x04000007) (b : Byte) :
    maskedByte m x b = m.read x := by
  rcases hx with rfl | rfl <;> rfl

/-- WriteMask keeps the three flags of DISPSTAT. -/
theorem maskedByte_flag (m : Memory) (b : Byte) {i : Nat} (hi : i < 3) :
    (maskedByte m 0x04000004 b).getLsbD i = (m.read 0x04000004).getLsbD i := by
  simp only [maskedByte, if_true, BitVec.getLsbD_or, BitVec.getLsbD_and]
  interval_cases i <;> simp

/-- A bus store keeps VCOUNT and the flags. -/
theorem busStore_statusKept (addr : Addr) (w : Width) (v : Word) {s : State} (hm : s.mem.wf) :
    StatusKept s.mem (busStore addr w v s).mem := by
  have hcount : ∀ x, x = 0x04000006 ∨ x = 0x04000007 → (busStore addr w v s).mem.read x = s.mem.read x := by
    intro x hx
    obtain hr | ⟨b, hr⟩ := busStore_read addr w v hm x
    · exact hr
    · exact hr.trans (maskedByte_vcount _ hx b)
  have hflag : ∀ i < 3, ((busStore addr w v s).mem.read 0x04000004).getLsbD i = (s.mem.read 0x04000004).getLsbD i := by
    intro i hi
    obtain hr | ⟨b, hr⟩ := busStore_read addr w v hm 0x04000004
    · rw [hr]
    · rw [hr, maskedByte_flag _ b hi]
  refine ⟨vcount_eq_of_read (hcount _ (.inl rfl)) (hcount _ (.inr rfl)), ?_, ?_⟩
  · rw [hblankFlag_statusWord, hblankFlag_statusWord, hflag 1 (by decide)]
  · rw [vblankFlag_statusWord, vblankFlag_statusWord, hflag 0 (by decide)]

/-! ### Changes that no invariant sees -/

/-- A state that differs from `s` only in fields that no invariant speaks of: the accumulators, the records of faults and
refusals, what the Presenter read, the schedule, the clock, the draws, and what an operation on its own returns. -/
def OutsideInv (s t : State) : Prop :=
  t = { s with
    tLine := t.tLine, acc0 := t.acc0, acc1 := t.acc1, faults := t.faults, refused := t.refused,
    presented := t.presented, schedule := t.schedule, draws := t.draws, clockReads := t.clockReads,
    response := t.response, box := t.box, texel := t.texel, tileNum := t.tileNum, objPixel := t.objPixel,
    bmpPixel := t.bmpPixel, winMask := t.winMask, winFx := t.winFx }

/-- Such a state keeps the invariants. -/
theorem inv_of_outside {s t : State} (h : s.Inv) (hk : OutsideInv s t) : t.Inv := by
  unfold OutsideInv at hk
  rw [hk]
  exact ⟨h.mem, h.line, h.buffers, h.frame, h.vcount, h.flags, h.stop, h.frames, h.monitors⟩

/-- A row operation that leaves the buffers in their shapes keeps the invariants. -/
theorem RowOnly.inv {s t : State} (hk : RowOnly s t) (h : s.Inv) (hb : t.buffersOk) (hf : t.frameOk) : t.Inv := by
  unfold RowOnly at hk
  rw [hk]
  exact ⟨h.mem, h.line, hb, hf, h.vcount, h.flags, h.stop, h.frames, h.monitors⟩

/-! ### Bus transactions (40_register_interface.md R400 to R408) -/

/-- A bus store into a window keeps the invariants. -/
theorem busStore_inv {addr : Addr} {w : Width} (v : Word) {s : State} (h : s.Inv)
    (ha : inWindow addr.toNat (widthBytes w) = true) : (busStore addr w v s).Inv := by
  have hmem := store_memOk (writeMask s.mem addr.toNat v) h.mem ha
  have hkept := busStore_statusKept addr w v h.mem.1
  rw [busStore_mem] at hkept
  obtain ⟨hcount, hflags⟩ := hkept.vcountOk_flagsOk h
  obtain ⟨a0, a1, he⟩ := busStore_frame addr w v s
  rw [he]
  exact ⟨hmem, h.line, h.buffers, h.frame, hcount, hflags, h.stop, h.frames, h.monitors⟩

/-- A transaction keeps the invariants if what follows its checks does. -/
theorem busChecked_inv {addr : Addr} {w : Width} {k : State → State} {s : State} (h : s.Inv)
    (hk : inWindow addr.toNat (widthBytes w) = true → (k s).Inv) : (busChecked addr w k s).Inv := by
  obtain he | he | ⟨hin, -, he⟩ := busChecked_cases addr w k s
  · rw [he]; exact inv_of_outside h rfl
  · rw [he]; exact inv_of_outside h rfl
  · rw [he]; exact hk hin

/-- A bus read keeps the invariants. -/
theorem busRead_inv (addr : Addr) (w : Width) {s : State} (h : s.Inv) : (busRead addr w s).Inv :=
  busChecked_inv h fun _ => inv_of_outside h rfl

/-- A bus write keeps the invariants. -/
theorem busWrite_inv (addr : Addr) (w : Width) (v : Word) {s : State} (h : s.Inv) : (busWrite addr w v s).Inv :=
  busChecked_inv h fun hin => inv_of_outside (busStore_inv v h hin) rfl

/-- A compare-and-set keeps the invariants, whether it stores or not. -/
theorem busCas_inv (addr : Addr) (expected update : Word) {s : State} (h : s.Inv) :
    (busCas addr expected update s).Inv := by
  refine busChecked_inv h fun hin => ?_
  split
  · exact inv_of_outside (busStore_inv update h hin) rfl
  · exact inv_of_outside h rfl

/-- A new monitor stands behind the two of construction. -/
theorem addMonitor_inv (e : Monitor) {s : State} (h : s.Inv) : (addMonitor e s).Inv :=
  ⟨h.mem, h.line, h.buffers, h.frame, h.vcount, h.flags, h.stop, h.frames, h.monitors.trans ⟨[e], rfl⟩⟩

/-! ### Render operations (42_backgrounds.md, 43_sprites.md, 44_compositor.md) -/

/-- An operation guarded by the line keeps the invariants if it does on a visible line. -/
theorem onVisible_inv {k : State → State} {s : State} (h : s.Inv) (hk : (k s).Inv) : (onVisible k s).Inv := by
  unfold onVisible
  split
  · exact hk
  · exact h

/-- A mode 0 to 5. -/
theorem modeRow_inv (m : Memory) (d : Half) (l : Nat) (ks : LayerKinds) {s : State} (h : s.Inv) :
    (modeRow m d l ks s).Inv := by
  obtain ⟨hb, hf⟩ := modeRow_shapes m d l ks h.frame
  exact (modeRow_frame m d l ks s).inv h hb hf

/-- A forced blank. -/
theorem whiteRow_inv {s : State} (h : s.Inv) : (whiteRow s).Inv :=
  (whiteRow_frame s).inv h h.buffers (setFbRow_frameOk _ h.frame white_row)

/-- A row of draws. -/
theorem undefinedRow_inv {s : State} (h : s.Inv) : (undefinedRow s).Inv := by
  obtain ⟨hb, hf⟩ := undefinedRow_shapes h.buffers h.frame
  exact (undefinedRow_frame s).inv h hb hf

/-- The operation that DISPCNT selects (42_backgrounds.md R601). -/
theorem effectiveRow_inv (d : Half) {s : State} (h : s.Inv) : (effectiveRow d s).Inv := by
  unfold effectiveRow
  split
  · exact whiteRow_inv h
  · split
    · exact modeRow_inv _ _ _ _ h
    · exact modeRow_inv _ _ _ _ h
    · exact modeRow_inv _ _ _ _ h
    · exact modeRow_inv _ _ _ _ h
    · exact modeRow_inv _ _ _ _ h
    · exact modeRow_inv _ _ _ _ h
    · exact whiteRow_inv h
    · exact undefinedRow_inv h

/-- The line render (R600). -/
theorem renderLine_inv {s : State} (h : s.Inv) : (renderLine s).Inv :=
  inv_of_outside (effectiveRow_inv (reg16 (snapshot s) 0x000) h) rfl

/-- A layer operation on its own writes line buffers and takes draws. -/
theorem layerOp_frame (n : BitVec 2) (f : Nat → Half) (s : State) : RowOnly s (layerOp n f s) := by
  unfold layerOp onVisible
  split
  · unfold setLb
    split <;> rfl
  · rfl

/-- A layer operation on its own, whose pixel rule gives layer colours. -/
theorem layerOp_inv (n : BitVec 2) {f : Nat → Half} {s : State} (h : s.Inv) (hf : ∀ x, layerColour (f x)) :
    (layerOp n f s).Inv := by
  refine (layerOp_frame n f s).inv h ?_ ?_
  · unfold layerOp onVisible
    split
    · exact setLb_buffersOk n h.buffers (colourRow_columns hf)
    · exact h.buffers
  · unfold layerOp onVisible
    split
    · simpa [State.frameOk] using h.frame
    · exact h.frame

/-- The pixel of an affine layer that clips is a layer colour, whatever control word it is given (42_backgrounds.md
R617). -/
theorem affinePixelClip_layer (m : Memory) (slot : BitVec 1) (acc : Acc) (cnt : Half) (base x : Nat) :
    layerColour (affinePixelClip m slot acc cnt base x) := by
  unfold affinePixelClip
  dsimp only
  split
  · exact indexColour_layer _ _ _
  · exact .inl rfl

/-- `WritePixel` at a column writes the two sprite buffers. -/
theorem writePixelAt_frame (x : Nat) (prio mode : BitVec 2) (c : Half) (s : State) :
    RowOnly s (writePixelAt x prio mode c s) := by
  unfold writePixelAt
  split
  · split <;> rfl
  · rfl

/-- `WritePixel` leaves the frame buffer alone. -/
theorem writePixelAt_fb (x : Nat) (prio mode : BitVec 2) (c : Half) (s : State) :
    (writePixelAt x prio mode c s).fb = s.fb := by
  unfold writePixelAt
  split
  · split <;> rfl
  · rfl

/-- The write of an opaque sprite pixel (43_sprites.md R712). -/
theorem writePixelAt_inv (x : Nat) (prio mode : BitVec 2) (c : BitVec 15) {s : State} (h : s.Inv) :
    (writePixelAt x prio mode (0#1 ++ c) s).Inv := by
  refine (writePixelAt_frame x prio mode _ s).inv h (writePixelAt_buffersOk x prio mode c h.buffers) ?_
  unfold State.frameOk
  rw [writePixelAt_fb]
  exact h.frame

/-- A window row leaves its control where no invariant looks. -/
theorem windowOp_inv (k : WindowKind) (ctl : Control) (x : Byte) {s : State} (h : s.Inv) : (windowOp k ctl x s).Inv := by
  unfold windowOp
  split
  · exact inv_of_outside h rfl
  · exact h

/-- An opaque pixel put into the frame. -/
theorem setFbPixel_inv (y x : Nat) {c : Half} {s : State} (h : s.Inv) (hc : opaqueColour c) : (setFbPixel y x c s).Inv :=
  RowOnly.inv rfl h h.buffers (setFbPixel_frameOk y x h.frame hc)

/-- The first candidate of a column is opaque (44_compositor.md R806). -/
theorem candidatesAt_first_opaque {s : State} (h : s.Inv) (x : Nat) : opaqueColour (candidatesAt s x).first.c :=
  (candidates_opaque _ _ (columnOf_ok h.buffers x)).1

/-- An effect row whose selected effect gives an opaque colour (R809). -/
theorem effectOp_inv (x : Byte) {c : Half} {s : State} (h : s.Inv) (hc : opaqueColour c) : (effectOp x c s).Inv :=
  onVisible_inv h (setFbPixel_inv _ _ h (effectOr_opaque _ _ _ (candidatesAt_first_opaque h _) hc))

/-- The row of a forced blend (R808). -/
theorem forcedAlpha_inv (x : Byte) {s : State} (h : s.Inv) :
    (if forcedAt s x.toNat then
      onVisible (fun t => setFbPixel t.line.toNat x.toNat (forcedColour (snapshot t) (candidatesAt t x.toNat)) t) s
    else s).Inv := by
  split
  · exact onVisible_inv h (setFbPixel_inv _ _ h (alpha_opaque _ _ _ _))
  · exact h

/-! ### The output-event trace (10_state.md R134, R139) -/

/-- An entry that is no frame-ready entry keeps the invariants. -/
theorem emit_inv {e : Event} {s : State} (he : e.frameNumber = none) (h : s.Inv) : (emit e s).Inv := by
  obtain ⟨hnumbers, hconsumed⟩ := h.frames
  refine ⟨h.mem, h.line, h.buffers, h.frame, h.vcount, h.flags, h.stop, ⟨?_, hconsumed⟩, h.monitors⟩
  simpa [List.filterMap_append, he] using hnumbers

/-- So does a conditional one. -/
theorem emitIf_inv (c : Bool) {e : Event} {s : State} (he : e.frameNumber = none) (h : s.Inv) : (emitIf c e s).Inv := by
  cases c
  · exact h
  · exact emit_inv he h

/-- The entry of a new frame has the next number. -/
theorem signalFrameReady_inv {s : State} (h : s.Inv) : (signalFrameReady s).Inv := by
  obtain ⟨hnumbers, hconsumed⟩ := h.frames
  refine ⟨h.mem, h.line, h.buffers, h.frame, h.vcount, h.flags, h.stop, ⟨?_, Nat.le_succ_of_le hconsumed⟩, h.monitors⟩
  simp [List.filterMap_append, hnumbers, Event.frameNumber, List.range'_concat, Nat.add_comm]

/-! ### The sub-steps of a line (41_timing_engine.md R501 to R512) -/

/-- A running Engine may move between two phases in which VCOUNT and the flags mean the same. -/
theorem setPhase_inv {s : State} {p q : Phase} (h : s.Inv) (hr : s.running = true) (hp : s.phase = p)
    (hcounted : q.counted = p.counted) (hflagged : q.flagged = p.flagged) (hblanking : q.blanking = p.blanking) :
    ({ s with phase := q } : State).Inv where
  mem := h.mem
  line := h.line
  buffers := h.buffers
  frame := h.frame
  vcount := ⟨h.vcount.1, fun hq => h.vcount.2 (hp ▸ hcounted ▸ hq)⟩
  flags := ⟨h.flags.1.trans (hp ▸ hblanking.symm), fun hq => h.flags.2 (hp ▸ hflagged ▸ hq)⟩
  stop := .inl hr
  frames := h.frames
  monitors := h.monitors

/-- VCOUNT after S1 (R501): the line. -/
theorem subS1_vcount {s : State} (hm : s.mem.wf) : vcount (subS1 s).mem = s.line.setWidth 16 := by
  have hlo := Memory.read_store_same s.mem 0x04000006 0 .half (s.line.setWidth 32) hm (by decide)
  have hhi := Memory.read_store_same s.mem 0x04000006 1 .half (s.line.setWidth 32) hm (by decide)
  have hbytes : vcount (subS1 s).mem = byteOf (s.line.setWidth 32) 1 ++ byteOf (s.line.setWidth 32) 0 :=
    congrArg₂ (fun hi lo : Byte => hi ++ lo) hhi hlo
  rw [hbytes]
  apply BitVec.eq_of_getLsbD_eq
  intro i hi
  simp only [byteOf, BitVec.getLsbD_append, BitVec.getLsbD_extractLsb', BitVec.getLsbD_setWidth]
  split
  · simp [*]; omega
  · simp [show i - 8 < 8 by omega, show 8 + (i - 8) = i by omega, hi]; omega

/-- The flags after S1: those before it. -/
theorem subS1_statusByte (s : State) : (subS1 s).statusByte = s.statusByte :=
  Memory.read_store_other s.mem 0x04000006 0x04000004 .half (s.line.setWidth 32) (by decide)

/-- S1: VCOUNT now holds the line. -/
theorem subStep_s1_inv {s : State} (h : s.Inv) (hr : s.running = true) (hp : s.phase = .s1) : (subStep .s1 s).Inv where
  mem := store_memOk (a := 0x04000006) (w := .half) (s.line.setWidth 32) h.mem (by decide)
  line := h.line
  buffers := h.buffers
  frame := h.frame
  vcount := by
    have hcount : vcount (subStep .s1 s).mem = s.line.setWidth 16 := subS1_vcount h.mem.1
    have hline : s.line.toNat < 228 := h.line
    refine ⟨?_, fun _ => hcount⟩
    rw [hcount, BitVec.toNat_setWidth]
    omega
  flags := by
    have hflag : hblankFlag (statusWord (subStep .s1 s).mem) = hblankFlag (statusWord s.mem) := by
      rw [hblankFlag_statusWord, hblankFlag_statusWord]
      exact congrArg (·.getLsbD 1) (subS1_statusByte s)
    refine ⟨?_, nofun⟩
    rw [hflag, h.flags.1, hp]
    rfl
  stop := .inl hr
  frames := h.frames
  monitors := h.monitors

/-- The status update of a sub-step, with the phase after it: VCOUNT stays, and the flags are those of that phase. -/
theorem statusCas_inv {s : State} {v b c : Bool} {q : Phase} (h : s.Inv) (hr : s.running = true)
    (hcounted : s.phase.counted = true) (hb : b = q.blanking)
    (hv : v = decide (160 ≤ s.line.toNat)) : ({ statusCas v b c s with phase := q } : State).Inv where
  mem := statusCas_memOk v b c h.mem
  line := h.line
  buffers := h.buffers
  frame := h.frame
  vcount := by
    have hkept : vcount (statusCas v b c s).mem = vcount s.mem :=
      vcount_eq_of_read (statusCas_read_other v b c h.mem.1 (by decide)) (statusCas_read_other v b c h.mem.1 (by decide))
    exact ⟨hkept ▸ h.vcount.1, fun _ => hkept.trans (h.vcount.2 hcounted)⟩
  flags := by
    have hbit := statusCas_bit v b c h.mem.1
    refine ⟨(hblankFlag_statusWord _).trans ((hbit 1).trans hb), fun _ => ?_⟩
    exact (vblankFlag_statusWord _).trans ((hbit 0).trans hv)
  stop := .inl hr
  frames := h.frames
  monitors := h.monitors

/-- A trace entry and a change of phase commute. -/
theorem emitIf_setPhase (c : Bool) (e : Event) (s : State) (q : Phase) :
    ({ emitIf c e s with phase := q } : State) = emitIf c e { s with phase := q } := by
  cases c <;> rfl

/-- S2 (R502): HBLANK_FLAG stays 0, VBLANK_FLAG becomes that of the line. -/
theorem subStep_s2_inv {s : State} (h : s.Inv) (hr : s.running = true) (hp : s.phase = .s2) : (subStep .s2 s).Inv := by
  have hblank : hblankFlag (statusWord s.mem) = Phase.s3.blanking := h.flags.1.trans (hp ▸ rfl)
  show ({ emitIf _ _ (updateLineFlags s) with phase := Phase.s3 } : State).Inv
  rw [emitIf_setPhase]
  exact emitIf_inv _ rfl (statusCas_inv h hr (hp ▸ rfl) hblank rfl)

/-- S6 and S8 (R509, R511): HBLANK_FLAG becomes that of the next phase, VBLANK_FLAG stays. -/
theorem updateHblankFlag_inv {s : State} {b : Bool} {q : Phase} (h : s.Inv) (hr : s.running = true)
    (hp : s.phase.counted = true ∧ s.phase.flagged = true) (hb : b = q.blanking) :
    ({ updateHblankFlag b s with phase := q } : State).Inv :=
  statusCas_inv h hr hp.1 hb (h.flags.2 hp.2)

/-- S6: HBLANK_FLAG is set; the entries of the trace are no frame-ready entries. -/
theorem subStep_s6_inv {s : State} (h : s.Inv) (hr : s.running = true) (hp : s.phase = .s6) : (subStep .s6 s).Inv := by
  show ({ emitIf _ _ (emit _ (updateHblankFlag true s)) with phase := Phase.s7 } : State).Inv
  have hflag : ({ updateHblankFlag true s with phase := Phase.s7 } : State).Inv :=
    updateHblankFlag_inv h hr (hp ▸ ⟨rfl, rfl⟩) rfl
  have hsignal : ({ emit (.signal .hblank) (updateHblankFlag true s) with phase := Phase.s7 } : State).Inv :=
    emit_inv (e := .signal .hblank) rfl hflag
  rw [emitIf_setPhase]
  exact emitIf_inv _ rfl hsignal

/-- S3 (R504) touches neither the phase nor the running Engine. -/
theorem subS3_running_phase (s : State) : (subS3 s).running = s.running ∧ (subS3 s).phase = s.phase := by
  unfold subS3 onVisible
  split
  · unfold renderLine
    rw [effectiveRow_frame (reg16 (snapshot s) 0x000) s]
    exact ⟨rfl, rfl⟩
  · exact ⟨rfl, rfl⟩

/-- S3 renders and moves on. -/
theorem subStep_s3_inv {s : State} (h : s.Inv) (hr : s.running = true) (hp : s.phase = .s3) : (subStep .s3 s).Inv := by
  obtain ⟨hrun, hphase⟩ := subS3_running_phase s
  exact setPhase_inv (onVisible_inv h (renderLine_inv h)) (hrun.trans hr) (hphase.trans hp) rfl rfl rfl

/-- S4 (R505 to R507): at line 160 a frame is ready and the accumulators are reloaded. -/
theorem subS4_inv {s : State} (h : s.Inv) : (subS4 s).Inv := by
  unfold subS4
  split
  · exact emitIf_inv _ rfl (emit_inv rfl (inv_of_outside (signalFrameReady_inv h) rfl))
  · exact h

/-- S4 touches neither the phase nor the running Engine. -/
theorem subS4_running_phase (s : State) : (subS4 s).running = s.running ∧ (subS4 s).phase = s.phase := by
  unfold subS4
  split <;> simp

/-- S4, with the phase after it. -/
theorem subStep_s4_inv {s : State} (h : s.Inv) (hr : s.running = true) (hp : s.phase = .s4) : (subStep .s4 s).Inv := by
  obtain ⟨hrun, hphase⟩ := subS4_running_phase s
  exact setPhase_inv (subS4_inv h) (hrun.trans hr) (hphase.trans hp) rfl rfl rfl

/-- S9 (R512): the next line begins; an Engine that stops was asked to and stands at line 0. -/
theorem subStep_s9_inv {s : State} (h : s.Inv) (hr : s.running = true) (hp : s.phase = .s9) : (subStep .s9 s).Inv := by
  have hline : s.line.toNat < 228 := h.line
  have hblank : hblankFlag (statusWord s.mem) = Phase.s1.blanking := h.flags.1.trans (hp ▸ rfl)
  show ({ subS9 s with phase := Phase.s1 } : State).Inv
  unfold subS9
  split
  · refine ⟨h.mem, (by decide : (0#8).toNat < 228), h.buffers, h.frame, ⟨h.vcount.1, nofun⟩, ⟨hblank, nofun⟩, ?_,
      h.frames, h.monitors⟩
    cases hs : s.stopRequested
    · exact .inl (by simp [hr])
    · exact .inr ⟨rfl, rfl, rfl⟩
  · refine ⟨h.mem, ?_, h.buffers, h.frame, ⟨h.vcount.1, nofun⟩, ⟨hblank, nofun⟩, .inl hr, h.frames, h.monitors⟩
    show (s.line + 1#8).toNat < 228
    rw [BitVec.toNat_add]
    simp only [BitVec.toNat_ofNat]
    omega

/-- The sub-step of the phase a running Engine stands at. -/
theorem subStep_inv {s : State} (h : s.Inv) (hr : s.running = true) : (subStep s.phase s).Inv := by
  cases hp : s.phase with
  | s1 => exact subStep_s1_inv h hr hp
  | s2 => exact subStep_s2_inv h hr hp
  | s3 => exact subStep_s3_inv h hr hp
  | s4 => exact subStep_s4_inv h hr hp
  | s5 => exact setPhase_inv h hr hp rfl rfl rfl
  | s6 => exact subStep_s6_inv h hr hp
  | s7 => exact setPhase_inv h hr hp rfl rfl rfl
  | s8 => exact updateHblankFlag_inv h hr (hp ▸ ⟨rfl, rfl⟩) rfl
  | s9 => exact subStep_s9_inv h hr hp

/-! ### The Engine's moves and the line step (41_timing_engine.md R500) -/

/-- A move of the Engine; a stopped one changes nothing. -/
theorem engineStep_inv {s : State} (h : s.Inv) : (engineStep s).Inv := by
  cases hr : s.running
  · rw [engineStep_stopped hr]; exact h
  · rw [engineStep_running hr]; exact subStep_inv h hr

/-- Only S9 can stop the Engine (R512). -/
theorem subStep_running {p : Phase} (hp : p ≠ .s9) (s : State) : (subStep p s).running = s.running := by
  cases p
  case s2 => exact emitIf_running _ _ _
  case s3 => exact (subS3_running_phase s).1
  case s4 => exact (subS4_running_phase s).1
  case s6 => exact emitIf_running _ _ _
  case s9 => exact absurd rfl hp
  all_goals rfl

/-- `q` is the sub-step after `p` in the same line. -/
def FollowsInLine (p q : Phase) : Prop := p ≠ .s9 ∧ q = nextPhase p

/-- The sub-steps to the end of the line begin with the phase given and follow each other. -/
theorem phasesFrom_chain (p : Phase) :
    ∃ qs, phasesFrom p = p :: qs ∧ (p :: qs).IsChain FollowsInLine := by
  cases p
  all_goals exact ⟨_, rfl, by simp [FollowsInLine, nextPhase]⟩

/-- Sub-steps that follow each other keep the invariants, from the phase the Engine stands at. -/
theorem foldl_subStep_inv {s : State} {qs : List Phase} (h : s.Inv) (hr : s.running = true)
    (hqs : (s.phase :: qs).IsChain FollowsInLine) : ((s.phase :: qs).foldl (fun t p => subStep p t) s).Inv := by
  induction qs generalizing s with
  | nil => exact subStep_inv h hr
  | cons q qs ih =>
    obtain ⟨⟨hlast, rfl⟩, htail⟩ := List.isChain_cons_cons.1 hqs
    exact ih (s := subStep s.phase s) (subStep_inv h hr) ((subStep_running hlast s).trans hr) htail

/-- A line step, from any phase (log entry 11). -/
theorem lineStep_inv {s : State} (h : s.Inv) : (lineStep s).Inv := by
  unfold lineStep
  split
  next hr =>
    obtain ⟨qs, hqs, hchain⟩ := phasesFrom_chain s.phase
    rw [hqs]
    exact foldl_subStep_inv h hr hchain
  next => exact h

/-- A line step of the lines that its row selects. -/
theorem lineStep_selected_inv (selected : Prop) [Decidable selected] {s : State} (h : s.Inv) :
    (if selected then lineStep s else s).Inv := by
  split
  · exact lineStep_inv h
  · exact h

/-- The host's request to stop (R512). -/
theorem stopRequested_inv {s : State} (h : s.Inv) : ({ s with stopRequested := true } : State).Inv :=
  ⟨h.mem, h.line, h.buffers, h.frame, h.vcount, h.flags, h.stop.imp_right fun hs => ⟨rfl, hs.2⟩, h.frames, h.monitors⟩

/-! ### Every operation, and every step -/

/-- Every operation of the table answers a next state that keeps the invariants, by the lemma on the shared operation its
meaning is made of. -/
theorem exec_next_inv (i : Instr) {s : State} (h : s.Inv) : ∃ t, exec i s = .next t ∧ t.Inv := by
  have heffects (bld : Half) (x : Byte) :=
    effectColours_opaque (snapshot s) bld (candidatesAt_first_opaque h x.toNat)
  cases i with
  | rd8 a => exact ⟨_, rfl, busRead_inv a .byte h⟩
  | rd16 a => exact ⟨_, rfl, busRead_inv a .half h⟩
  | rd32 a => exact ⟨_, rfl, busRead_inv a .word h⟩
  | wr8 a v => exact ⟨_, rfl, busWrite_inv a .byte _ h⟩
  | wr16 a v => exact ⟨_, rfl, busWrite_inv a .half _ h⟩
  | wr32 a v => exact ⟨_, rfl, busWrite_inv a .word v h⟩
  | cas32 a expected update => exact ⟨_, rfl, busCas_inv a expected update h⟩
  | addmon slot base len => exact ⟨_, rfl, addMonitor_inv _ h⟩
  | lineVisible => exact ⟨_, rfl, lineStep_selected_inv _ h⟩
  | lineVblankEntry => exact ⟨_, rfl, lineStep_selected_inv _ h⟩
  | lineVblank => exact ⟨_, rfl, lineStep_selected_inv _ h⟩
  | line => exact ⟨_, rfl, lineStep_inv h⟩
  | stop => exact ⟨_, rfl, stopRequested_inv h⟩
  | mode0 d => exact ⟨_, rfl, onVisible_inv h (modeRow_inv _ d _ _ h)⟩
  | mode1 d => exact ⟨_, rfl, onVisible_inv h (modeRow_inv _ d _ _ h)⟩
  | mode2 d => exact ⟨_, rfl, onVisible_inv h (modeRow_inv _ d _ _ h)⟩
  | mode3 d => exact ⟨_, rfl, onVisible_inv h (modeRow_inv _ d _ _ h)⟩
  | mode4 d => exact ⟨_, rfl, onVisible_inv h (modeRow_inv _ d _ _ h)⟩
  | mode5 d => exact ⟨_, rfl, onVisible_inv h (modeRow_inv _ d _ _ h)⟩
  | fblankMode6 d => exact ⟨_, rfl, onVisible_inv h (whiteRow_inv h)⟩
  | mode7 d => exact ⟨_, rfl, undefinedRow_inv h⟩
  | fblankBit d => exact ⟨_, rfl, onVisible_inv h (whiteRow_inv h)⟩
  | bgText4bpp n cnt => exact ⟨_, rfl, layerOp_inv n h fun _ => indexColour_layer _ _ _⟩
  | bgText8bpp n cnt => exact ⟨_, rfl, layerOp_inv n h fun _ => indexColour_layer _ _ _⟩
  | bgAffineClip slot cnt => exact ⟨_, rfl, layerOp_inv _ h (affinePixelClip_layer _ _ _ cnt _)⟩
  | bgAffineWrap slot cnt => exact ⟨_, rfl, layerOp_inv _ h fun _ => indexColour_layer _ _ _⟩
  | objModeNormal x prio c => exact ⟨_, rfl, writePixelAt_inv _ prio 0#2 c h⟩
  | objModeSemi x prio c => exact ⟨_, rfl, writePixelAt_inv _ prio 1#2 c h⟩
  | objModeWindow x prio c => exact ⟨_, rfl, writePixelAt_inv _ prio 2#2 c h⟩
  | objModeProhibited => exact ⟨_, rfl, undefinedRow_inv h⟩
  | objShapeProhibited => exact ⟨_, rfl, undefinedRow_inv h⟩
  | effNone bld x =>
    obtain ⟨hnone, -, -, -⟩ := heffects bld x
    exact ⟨_, rfl, effectOp_inv x h hnone⟩
  | effAlpha bld x =>
    obtain ⟨-, halpha, -, -⟩ := heffects bld x
    exact ⟨_, rfl, effectOp_inv x h halpha⟩
  | effBrighten bld x =>
    obtain ⟨-, -, hbrighten, -⟩ := heffects bld x
    exact ⟨_, rfl, effectOp_inv x h hbrighten⟩
  | effDarken bld x =>
    obtain ⟨-, -, -, hdarken⟩ := heffects bld x
    exact ⟨_, rfl, effectOp_inv x h hdarken⟩
  | effForcedAlpha x => exact ⟨_, rfl, forcedAlpha_inv x h⟩
  | winNone x => exact ⟨_, rfl, windowOp_inv _ _ x h⟩
  | win0 x => exact ⟨_, rfl, windowOp_inv _ _ x h⟩
  | win1 x => exact ⟨_, rfl, windowOp_inv _ _ x h⟩
  | winObj x => exact ⟨_, rfl, windowOp_inv _ _ x h⟩
  | winOut x => exact ⟨_, rfl, windowOp_inv _ _ x h⟩
  -- The other rows leave what they return in a result field of the model's own (log entry 12).
  | _ => exact ⟨_, rfl, inv_of_outside h rfl⟩

/-- What an operation answers keeps the invariants. -/
theorem exec_inv {i : Instr} {s t : State} (h : s.Inv) (ht : exec i s = .next t) : t.Inv := by
  obtain ⟨u, hu, hinv⟩ := exec_next_inv i h
  obtain rfl : u = t := Host.Outcome.next.inj (hu.symm.trans ht)
  exact hinv

/-- The end of the Presenter's wait: what is ready is consumed (10_state.md R134). -/
theorem presenterWait_inv {s : State} (h : s.Inv) : (presenterWait s).Inv :=
  ⟨h.mem, h.line, h.buffers, h.frame, h.vcount, h.flags, h.stop, ⟨h.frames.1, Nat.le_refl _⟩, h.monitors⟩

/-- Settles O9: a step is a move of the Engine (`engineStep_inv`), one of the Presenter, an operation (`exec_inv`), or a
command that does nothing but leave a mark or a fault; taking its entry off the schedule is seen by no invariant. -/
theorem stepKeepsInvariants : Obligations.StepKeepsInvariants := by
  intro s t hs hstep
  obtain ⟨-, rfl⟩ | ⟨e, rest, -, hmove⟩ := step_cases hstep
  · exact engineStep_inv hs
  · have hu : ({ s with schedule := rest } : State).Inv := inv_of_outside hs rfl
    obtain ⟨-, rfl⟩ | ⟨-, -, rfl⟩ | ⟨y, x, -, -, rfl⟩ | ⟨_, i, -, -, -, hexec⟩ | ⟨_, i, -, -, -, hexec⟩ |
      ⟨_, -, rfl⟩ | ⟨_, cmd, addr, -, rfl⟩ := hmove
    · exact engineStep_inv hu
    · exact presenterWait_inv hu
    · exact inv_of_outside hu rfl
    · exact exec_inv hu hexec
    · exact exec_inv hu hexec
    · exact inv_of_outside hu rfl
    · exact inv_of_outside hu rfl

/-! ### The line render and the bus (20_memory.md R208) -/

/-- Settles O37: the row writes the line buffers, the frame buffer and the draws (`effectiveRow_frame`), the advance after
it the accumulators. -/
theorem renderWritesNoBusState : Obligations.RenderWritesNoBusState := by
  intro s
  have hrow := effectiveRow_frame (reg16 (snapshot s) 0x000) s
  unfold renderLine
  generalize effectiveRow (reg16 (snapshot s) 0x000) s = t at hrow ⊢
  unfold RowOnly at hrow
  rw [hrow]
  rfl

end Sys2Proof.Machine
end

section
/-! ## Proofs about the decoder: what it reads is well-formed, and a step performs it (30_encoding.md R330, R340) -/

namespace Sys2Proof

/-! ### The selecting bits of a register word -/

/-- The bits of DISPCNT under the mask of R303, when bit 7 is 0: the mode number. -/
theorem mode_mask_eq {d : Half} (h : d.getLsbD 7 = false) : d &&& 0x0087#16 = (d.extractLsb' 0 3).setWidth 16 := by
  apply BitVec.eq_of_getLsbD_eq
  intro i hi
  interval_cases i <;> simp_all

/-- The bits of BLDCNT that select the effect (10_state.md R123). -/
theorem effect_mask_eq (b : Half) : b &&& 0x00C0#16 = (b.extractLsb' 6 2).setWidth 16 <<< 6 := by
  apply BitVec.eq_of_getLsbD_eq
  intro i hi
  interval_cases i <;> simp

/-- A DISPCNT word whose mode bits are `k` matches the row of mode `k` (R303). -/
theorem modeOk_of_bits {d : Half} {k : Nat} (h7 : ¬ d.getLsbD 7 = true) (hk : (d.extractLsb' 0 3).toNat = k) :
    Instr.modeOk d (BitVec.ofNat 16 k) = true := by
  have hm := mode_mask_eq (Bool.eq_false_iff.2 h7)
  rw [Instr.modeOk, hm, beq_iff_eq, ← hk, BitVec.ofNat_toNat]

/-- A BLDCNT word whose effect bits are `k` matches the row of effect `k`. -/
theorem effectOk_of_bits {b : Half} {k : Nat} (hk : (b.extractLsb' 6 2).toNat = k) :
    (b &&& 0x00C0#16) = BitVec.ofNat 16 k <<< 6 := by
  rw [effect_mask_eq, ← hk, BitVec.ofNat_toNat]

/-! ### Each format -/

/-- What a compositor row decodes to is the row, on a screen column. -/
theorem onColumn_ok {x : Byte} {i j : Instr} (h : onColumn x i = .ok j) : x.toNat < 240 ∧ i = j := by
  unfold onColumn at h
  split at h
  next hx => exact ⟨hx, Except.ok.inj h⟩
  next => cases h

/-- Bus and script commands carry no register word. -/
theorem decodeCommand_wellFormed {f : Frame} {i : Instr} (h : decodeCommand f = .ok i) : WellFormed i := by
  unfold decodeCommand at h
  split at h
  all_goals cases h
  all_goals rfl

/-- The rows of a line counter carry none. -/
theorem decodeLine_wellFormed {l : Half} {i : Instr} (h : decodeLine l = .ok i) : WellFormed i := by
  unfold decodeLine at h
  split at h
  · cases h; rfl
  · split at h
    · cases h; rfl
    · split at h
      · cases h; rfl
      · cases h

/-- A DISPCNT word decodes to the mode row that it matches (R303). -/
theorem decodeMode_wellFormed (d : Half) : WellFormed (decodeMode d) := by
  unfold decodeMode
  split
  next h7 => exact h7
  next h7 =>
    split
    case h_8 h0 h1 h2 h3 h4 h5 h6 =>
      simp only [imp_false] at h0 h1 h2 h3 h4 h5 h6
      have hlt := (d.extractLsb' 0 3).isLt
      exact modeOk_of_bits (k := 7) h7 (by omega)
    all_goals
      next hk => exact modeOk_of_bits h7 hk

/-- The two object mappings. -/
theorem decodeObjMap_wellFormed (f : Frame) : WellFormed (decodeObjMap f) := by
  unfold decodeObjMap
  split <;> rfl

/-- A text layer's control word selects its depth (R304). -/
theorem decodeText_wellFormed (f : Frame) : WellFormed (decodeText f) := by
  unfold decodeText
  split
  next h => exact h
  next h => simpa [WellFormed, Instr.wellFormed] using h

/-- An affine layer's control word selects what happens outside its map (R304). -/
theorem decodeAffine_wellFormed (f : Frame) : WellFormed (decodeAffine f) := by
  unfold decodeAffine
  split
  next h => exact h
  next h => simpa [WellFormed, Instr.wellFormed] using h

/-- The kinds of a record (R312). -/
theorem decodeObjKind_wellFormed (f : Frame) : WellFormed (decodeObjKind f) := by
  unfold decodeObjKind
  dsimp only
  split <;> rfl

/-- The modes of a record (R312). -/
theorem decodeObjMode_wellFormed (f : Frame) : WellFormed (decodeObjMode f) := by
  unfold decodeObjMode
  dsimp only
  split <;> rfl

/-- The depths of a record (R311). -/
theorem decodeObjDepth_wellFormed (f : Frame) : WellFormed (decodeObjDepth f) := by
  unfold decodeObjDepth
  dsimp only
  split <;> rfl

/-- The shapes of a record (R312). -/
theorem decodeObjShape_wellFormed (f : Frame) : WellFormed (decodeObjShape f) := by
  unfold decodeObjShape
  dsimp only
  split <;> rfl

/-- A record is hidden, or the row of its other bits. -/
theorem shownRecord_wellFormed (a0 : Half) {i : Instr} (h : WellFormed i) : WellFormed (shownRecord a0 i) := by
  unfold shownRecord
  split
  · rfl
  · exact h

/-- The bitmap rows. -/
theorem decodeBitmap_wellFormed {f : Frame} {i : Instr} (h : decodeBitmap f = .ok i) : WellFormed i := by
  unfold decodeBitmap at h
  dsimp only at h
  split at h
  · cases h
  · split at h
    all_goals cases h
    all_goals rfl

/-- A BLDCNT word decodes to the effect row that it selects, on a screen column. -/
theorem decodeEffect_wellFormed {f : Frame} {i : Instr} (h : decodeEffect f = .ok i) : WellFormed i := by
  have row {k : Nat} (hk : (f.sel.extractLsb' 6 2).toNat = k) (hx : f.p.toNat < 240) :
      ((f.sel &&& 0x00C0#16) == BitVec.ofNat 16 k <<< 6 && Instr.colOk f.p) = true := by
    simp [effectOk_of_bits hk, Instr.colOk, hx]
  unfold decodeEffect at h
  split at h
  case h_4 h0 h1 h2 =>
    obtain ⟨hx, rfl⟩ := onColumn_ok h
    simp only [imp_false] at h0 h1 h2
    have hlt := (f.sel.extractLsb' 6 2).isLt
    exact row (k := 3) (by omega) hx
  all_goals
    next hk =>
      obtain ⟨hx, rfl⟩ := onColumn_ok h
      exact row hk hx

/-- The per-pixel rows, on a screen column. -/
theorem decodePixel_wellFormed {f : Frame} {i : Instr} (h : decodePixel f = .ok i) : WellFormed i := by
  unfold decodePixel at h
  split at h
  case h_7 => cases h
  all_goals
    obtain ⟨hx, rfl⟩ := onColumn_ok h
    exact decide_eq_true hx

/-! ### The whole decoder -/

/-- A frame of any format. -/
theorem decodeAs_wellFormed {tag : Nat} {f : Frame} {i : Instr} (h : decodeAs tag f = .ok i) : WellFormed i := by
  unfold decodeAs at h
  split at h
  · exact decodeCommand_wellFormed h
  · cases h; rfl
  · exact decodeLine_wellFormed h
  · cases h; exact decodeMode_wellFormed _
  · cases h; exact decodeObjMap_wellFormed f
  · cases h; exact decodeText_wellFormed f
  · cases h; exact decodeAffine_wellFormed f
  · cases h; exact decodeObjKind_wellFormed f
  · cases h; exact shownRecord_wellFormed _ (decodeObjMode_wellFormed f)
  · cases h; exact shownRecord_wellFormed _ (decodeObjDepth_wellFormed f)
  · cases h; exact shownRecord_wellFormed _ (decodeObjShape_wellFormed f)
  · exact decodeBitmap_wellFormed h
  · exact decodeEffect_wellFormed h
  · exact decodePixel_wellFormed h
  · cases h

/-- What the decoder accepts is a well-formed operation (R330). -/
theorem decode_wellFormed {bytes : List Byte} {i : Instr} (h : decode bytes = .ok i) : WellFormed i := by
  unfold decode at h
  split at h
  · unfold decodeFrame at h
    split at h
    · split at h
      · exact decodeAs_wellFormed h
      · cases h
    · exact decodeAs_wellFormed h
  · cases h

end Sys2Proof

namespace Sys2Proof.Machine

/-- Settles O5: the entry at the head of the schedule can move (`step_head`), and what it decodes to is performed. -/
theorem stepRunsTheCommand : Obligations.StepRunsTheCommand := by
  intro s bytes rest i hd
  refine ⟨decode_wellFormed hd, fun hi hs => ?_, fun hi hs => ?_⟩
  · exact (step_head hs rfl).trans (command_ok hd hi)
  · exact (step_head hs rfl).trans (operation_ok hd hi)

end Sys2Proof.Machine
end

section
/-! ## Proofs about the encoding: the round trip, the command codes, and what DISPCNT selects (30_encoding.md) -/

namespace Sys2Proof.Laws.RoundTrip

/-- Every operation of the table comes back from its encoding (R330). -/
theorem roundTrip : ∀ i : Instr, Statement i
  | .rd8 addr => rd8 addr
  | .rd16 addr => rd16 addr
  | .rd32 addr => rd32 addr
  | .wr8 addr data => wr8 addr data
  | .wr16 addr data => wr16 addr data
  | .wr32 addr data => wr32 addr data
  | .cas32 addr expected update => cas32 addr expected update
  | .addmon slot base len => addmon slot base len
  | .lineVisible => lineVisible
  | .lineVblankEntry => lineVblankEntry
  | .lineVblank => lineVblank
  | .line => line
  | .stop => stop
  | .mode0 d => mode0 d
  | .mode1 d => mode1 d
  | .mode2 d => mode2 d
  | .mode3 d => mode3 d
  | .mode4 d => mode4 d
  | .mode5 d => mode5 d
  | .fblankMode6 d => fblankMode6 d
  | .mode7 d => mode7 d
  | .fblankBit d => fblankBit d
  | .objMap2d tile deep tx ty => objMap2d tile deep tx ty
  | .objMap1d tile w deep tx ty => objMap1d tile w deep tx ty
  | .bgText4bpp n cnt => bgText4bpp n cnt
  | .bgText8bpp n cnt => bgText8bpp n cnt
  | .bgAffineClip slot cnt => bgAffineClip slot cnt
  | .bgAffineWrap slot cnt => bgAffineWrap slot cnt
  | .objRegular a1 w h bx ry => objRegular a1 w h bx ry
  | .objAffine a1 w h bx ry => objAffine a1 w h bx ry
  | .objHidden => objHidden
  | .objAffineDouble a1 w h bx ry => objAffineDouble a1 w h bx ry
  | .objModeNormal x prio c => objModeNormal x prio c
  | .objModeSemi x prio c => objModeSemi x prio c
  | .objModeWindow x prio c => objModeWindow x prio c
  | .objModeProhibited => objModeProhibited
  | .obj4bpp a2 w tx ty => obj4bpp a2 w tx ty
  | .obj8bpp a2 w tx ty => obj8bpp a2 w tx ty
  | .objShapeSquare size => objShapeSquare size
  | .objShapeHorizontal size => objShapeHorizontal size
  | .objShapeVertical size => objShapeVertical size
  | .objShapeProhibited => objShapeProhibited
  | .bitmap3 ix iy => bitmap3 ix iy
  | .bitmap4 frame ix iy => bitmap4 frame ix iy
  | .bitmap5 frame ix iy => bitmap5 frame ix iy
  | .effNone bld x => effNone bld x
  | .effAlpha bld x => effAlpha bld x
  | .effBrighten bld x => effBrighten bld x
  | .effDarken bld x => effDarken bld x
  | .effForcedAlpha x => effForcedAlpha x
  | .winNone x => winNone x
  | .win0 x => win0 x
  | .win1 x => win1 x
  | .winObj x => winObj x
  | .winOut x => winOut x

end Sys2Proof.Laws.RoundTrip

namespace Sys2Proof

/-! ### Frames and the operations they stand for (R302, R330) -/

/-- A frame has 16 bytes (log entry 2). -/
@[simp] theorem Frame.length_bytes (f : Frame) : f.bytes.length = 16 := rfl

/-- Only 16 bytes are read as a frame. -/
theorem length_of_frameOf? {bytes : List Byte} {f : Frame} (h : frameOf? bytes = some f) : bytes.length = 16 := by
  unfold frameOf? at h
  split at h
  · rfl
  · cases h

/-- What decodes to an operation is a frame. -/
theorem length_of_decode {bytes : List Byte} {i : Instr} (h : decode bytes = .ok i) : bytes.length = 16 := by
  unfold decode at h
  split at h
  next hf => exact length_of_frameOf? hf
  next => cases h

/-- Settles O1: each row by its own round trip. -/
theorem decodeEncodeRoundTrip : Obligations.DecodeEncodeRoundTrip :=
  fun i h => ⟨Frame.length_bytes _, Laws.RoundTrip.roundTrip i h⟩

/-- Settles O2: the length is that of the one shape read as a frame, the rest is `decode_wellFormed`. -/
theorem decodedIsWellFormed : Obligations.DecodedIsWellFormed :=
  fun _ _ h => ⟨length_of_decode h, decode_wellFormed h⟩

/-- A bus frame is read by its command code. -/
theorem decode_busFrame (cmd : Half) (addr data expected : Word) :
    decode (busFrame cmd addr data expected).bytes = decodeCommand (busFrame cmd addr data expected) := by
  rw [decode, frameOf?_bytes]
  exact decodeFrame_format (show (0#8 : Byte) ≠ 14#8 by decide)

/-- Settles O3: with the frame read (`decode_busFrame`), each code is one arm of `decodeCommand`; a narrow write takes the
low bits of the data. -/
theorem commandCodes : Obligations.CommandCodes := by
  intro addr data expected
  have hbyte : byteOf data 0 = data.setWidth 8 := (BitVec.setWidth_eq_extractLsb' (by decide)).symm
  have hhalf : data.extractLsb' 0 16 = data.setWidth 16 := (BitVec.setWidth_eq_extractLsb' (by decide)).symm
  simp only [decode_busFrame, ← hbyte, ← hhalf]
  exact ⟨rfl, rfl, rfl, rfl, rfl, rfl, rfl, rfl, rfl, rfl, rfl, rfl, rfl, rfl, rfl, rfl⟩

/-- Settles O4: each frame is read by evaluation. -/
theorem sampleFramesDecode : Obligations.SampleFramesDecode := ⟨rfl, rfl, rfl, rfl, rfl⟩

/-- The row that a DISPCNT word selects is the only well-formed operation with that word's frame (R303). -/
theorem decodeMode_eq {d : Half} {i : Instr} (he : encodeFrame i = bareFrame 3#8 d) (h : WellFormed i) :
    decodeMode d = i := by
  have hi : decodeFrame (bareFrame 3#8 d) = .ok i := by
    rw [← he, ← decode_encode]
    exact Laws.RoundTrip.roundTrip i h
  exact Except.ok.inj hi

end Sys2Proof

namespace Sys2Proof.Machine

/-! ### The operation of a visible line (R303, 42_backgrounds.md R601) -/

/-- On a visible line the row that DISPCNT decodes to is the operation that the line render selects. -/
theorem exec_decodeMode (d : Half) {s : State} (hv : s.line.toNat < 160) :
    exec (decodeMode d) s = .next (effectiveRow d s) := by
  have shown (k : State → State) : (.next (onVisible k s) : Outcome) = .next (k s) := by
    rw [onVisible_of_lt hv]
  unfold decodeMode effectiveRow field
  split
  · exact shown whiteRow
  · generalize (d.extractLsb' 0 3).toNat = mode
    match mode with
    | 0 => exact shown (mode0Row d)
    | 1 => exact shown (mode1Row d)
    | 2 => exact shown (mode2Row d)
    | 3 => exact shown (mode3Row d)
    | 4 => exact shown (mode4Row d)
    | 5 => exact shown (mode5Row d)
    | 6 => exact shown whiteRow
    | _ + 7 => rfl

/-- Settles O32: a word that matches a row decodes to it (`decodeMode_eq`), and what it decodes to is what the line render
performs (`exec_decodeMode`). -/
theorem modeSelector : Obligations.ModeSelector := by
  intro s d hv hd
  have selects {i : Instr} (he : encodeFrame i = bareFrame 3#8 d) (h : WellFormed i) :
      ∃ t, exec i s = .next t ∧ renderLine s = advanceAccumulators s.mem t := by
    refine ⟨effectiveRow d s, ?_, ?_⟩
    · rw [← decodeMode_eq he h, exec_decodeMode d hv]
    · rw [renderLine, snapshot, hd]
  have hblank (h : d &&& 0x0080#16 = 0x0080#16) : d.getLsbD 7 = true := by
    simpa using congrArg (fun v : Half => v.getLsbD 7) h
  exact ⟨fun h => selects (i := .mode0 d) rfl (beq_iff_eq.2 h), fun h => selects (i := .mode1 d) rfl (beq_iff_eq.2 h),
    fun h => selects (i := .mode2 d) rfl (beq_iff_eq.2 h), fun h => selects (i := .mode3 d) rfl (beq_iff_eq.2 h),
    fun h => selects (i := .mode4 d) rfl (beq_iff_eq.2 h), fun h => selects (i := .mode5 d) rfl (beq_iff_eq.2 h),
    fun h => selects (i := .fblankMode6 d) rfl (beq_iff_eq.2 h), fun h => selects (i := .fblankBit d) rfl (hblank h),
    fun h => selects (i := .mode7 d) rfl (beq_iff_eq.2 h)⟩

/-! ### The layers of a mode (R304, 42_backgrounds.md R610) -/

/-- A one-bit field. -/
theorem field_bit {n : Nat} (v : BitVec n) (i : Nat) : field v i 1 = (v.getLsbD i).toNat := by
  rw [field_eq, getLsbD_eq_div]
  rcases Nat.mod_two_eq_zero_or_one (v.toNat / 2 ^ i) with h | h <;> simp [h]

/-- The line buffers of a mode 0 to 5: the sprite pass and the compositor leave those of the layers alone (R600). -/
theorem modeRow_layers (m : Memory) (d : Half) (l : Nat) (ks : LayerKinds) (s : State) :
    let layer := fun n k => renderLayer m s.acc0 s.acc1 Config.mode4Geometry d n k l (s.draws + 240 * n)
    (modeRow m d l ks s).lb0 = layer 0 ks.k0 ∧ (modeRow m d l ks s).lb1 = layer 1 ks.k1 ∧
      (modeRow m d l ks s).lb2 = layer 2 ks.k2 ∧ (modeRow m d l ks s).lb3 = layer 3 ks.k3 := by
  unfold modeRow
  dsimp only
  split <;> exact ⟨rfl, rfl, rfl, rfl⟩

section
variable (m : Memory) (a0 a1 : Acc) (g : Nat × Nat) (d : Half)

/-- A layer is rendered column by column, or is transparent (R610). -/
theorem renderLayer_eq (n : Nat) (k : LayerKind) (l base : Nat) :
    renderLayer m a0 a1 g d n k l base =
      if layerShown d n k then columns (layerPixel m a0 a1 g d n k l base) else List.replicate 240 0x8000#16 := by
  unfold renderLayer
  cases layerShown d n k
  · simp [columns, transparent]
  · rfl

/-- A layer of kind OFF. -/
theorem renderLayer_off (n l base : Nat) :
    renderLayer m a0 a1 g d n .off l base = List.replicate 240 0x8000#16 := renderLayer_eq ..

/-- A text layer: its enable bit, then its depth. -/
theorem renderLayer_text (n l base : Nat) :
    renderLayer m a0 a1 g d n (textKind (bgCnt m n)) l base =
      if d.getLsbD (8 + n) then
        if (bgCnt m n).getLsbD 7 then columns (textPixel8 m n (bgCnt m n) l base)
        else columns (textPixel4 m n (bgCnt m n) l base)
      else List.replicate 240 0x8000#16 := by
  rw [renderLayer_eq, textKind]
  cases (bgCnt m n).getLsbD 7 <;> rfl

/-- An affine layer: its enable bit, then what happens outside its map; layer 3 is of slot 1, layer 2 of slot 0 (R623). -/
theorem renderLayer_affine (n l base : Nat) :
    let slot : BitVec 1 := if n = 3 then 1#1 else 0#1
    let acc := if n = 3 then a1 else a0
    renderLayer m a0 a1 g d n (affineKind (bgCnt m n)) l base =
      if d.getLsbD (8 + n) then
        if (bgCnt m n).getLsbD 13 then columns (affinePixelWrap m slot acc (bgCnt m n) base)
        else columns (affinePixelClip m slot acc (bgCnt m n) base)
      else List.replicate 240 0x8000#16 := by
  rw [renderLayer_eq, affineKind]
  cases (bgCnt m n).getLsbD 13 <;> rfl

/-- A bitmap layer has no enable bit (R610). -/
theorem renderLayer_bitmap (n : Nat) (k : BitmapKind) (l base : Nat) :
    renderLayer m a0 a1 g d n (.bitmap k) l base =
      columns (bitmapLayerPixel m g k (d.getLsbD 4).toNat a0 (bgCnt m 2) base) := by
  rw [← field_bit]
  exact renderLayer_eq ..

end

/-- A mode row that is performed on a visible line leaves each layer's render in its line buffer. -/
theorem exec_modeRow_layers {i : Instr} {s : State} {d : Half} {row : State → State} (ks : LayerKinds)
    (hv : s.line.toNat < 160) (hi : exec i s = .next (onVisible row s))
    (hrow : row s = modeRow s.mem d s.line.toNat ks s) :
    let layer := fun n k => renderLayer s.mem s.acc0 s.acc1 Config.mode4Geometry d n k s.line.toNat (s.draws + 240 * n)
    ∃ t, exec i s = .next t ∧ t.lb0 = layer 0 ks.k0 ∧ t.lb1 = layer 1 ks.k1 ∧ t.lb2 = layer 2 ks.k2 ∧
      t.lb3 = layer 3 ks.k3 :=
  ⟨_, by rw [hi, onVisible_of_lt hv, hrow], modeRow_layers s.mem d s.line.toNat ks s⟩

/-- Settles O35: each line buffer is the render of its layer (`exec_modeRow_layers`), read off by the layer's kind. -/
theorem modeLayers : Obligations.ModeLayers := by
  intro s d hv m off text affine bitmap
  have hbitmap (k : BitmapKind) (row : State → State) {i : Instr} (hi : exec i s = .next (onVisible row s))
      (hrow : row s = modeRow s.mem d s.line.toNat (kindsBitmap k) s) :
      ∃ t, exec i s = .next t ∧ t.lb0 = off ∧ t.lb1 = off ∧ t.lb2 = bitmap k ∧ t.lb3 = off := by
    obtain ⟨t, ht, h0, h1, h2, h3⟩ := exec_modeRow_layers _ hv hi hrow
    exact ⟨t, ht, h0.trans (renderLayer_off ..), h1.trans (renderLayer_off ..), h2.trans (renderLayer_bitmap ..),
      h3.trans (renderLayer_off ..)⟩
  refine ⟨?_, ?_, ?_, hbitmap _ (mode3Row d) rfl rfl, hbitmap _ (mode4Row d) rfl rfl, hbitmap _ (mode5Row d) rfl rfl⟩
  · obtain ⟨t, ht, h0, h1, h2, h3⟩ :=
      exec_modeRow_layers (i := .mode0 d) (row := mode0Row d) (kindsMode0 s.mem) hv rfl rfl
    exact ⟨t, ht, h0.trans (renderLayer_text ..), h1.trans (renderLayer_text ..), h2.trans (renderLayer_text ..),
      h3.trans (renderLayer_text ..)⟩
  · obtain ⟨t, ht, h0, h1, h2, h3⟩ :=
      exec_modeRow_layers (i := .mode1 d) (row := mode1Row d) (kindsMode1 s.mem) hv rfl rfl
    exact ⟨t, ht, h0.trans (renderLayer_text ..), h1.trans (renderLayer_text ..), h2.trans (renderLayer_affine ..),
      h3.trans (renderLayer_off ..)⟩
  · obtain ⟨t, ht, h0, h1, h2, h3⟩ :=
      exec_modeRow_layers (i := .mode2 d) (row := mode2Row d) (kindsMode2 s.mem) hv rfl rfl
    exact ⟨t, ht, h0.trans (renderLayer_off ..), h1.trans (renderLayer_off ..), h2.trans (renderLayer_affine ..),
      h3.trans (renderLayer_affine ..)⟩

end Sys2Proof.Machine
end

section
/-! ## Proofs of the statements about bus transactions and monitors (40_register_interface.md) -/

namespace Sys2Proof.Machine

/-! ### The checks of a transaction, in the terms of the claims (60_exceptions.md R907) -/

/-- The windows of the claims are those of the model (20_memory.md R200). -/
theorem inWindow_iff_insideWindow (a n : Nat) : inWindow a n = true ↔ insideWindow a n := inWindow_iff a n

/-- A transaction outside the windows ends in the state after a refusal. -/
theorem busChecked_eq_afterRefusal {addr : Addr} {w : Width} {k : State → State} {s : State}
    (h : ¬ insideWindow addr.toNat (widthBytes w)) : busChecked addr w k s = s.afterRefusal :=
  busChecked_outside (Bool.eq_false_iff.2 fun hin => h ((inWindow_iff_insideWindow _ _).1 hin))

/-- A misaligned one inside them ends in the state after a fault. -/
theorem busChecked_eq_afterFault {addr : Addr} {w : Width} {k : State → State} {s : State}
    (h : insideWindow addr.toNat (widthBytes w)) (ha : addr.toNat % widthBytes w ≠ 0) :
    busChecked addr w k s = s.afterFault (.misaligned addr (widthBytes w)) :=
  busChecked_misaligned ((inWindow_iff_insideWindow _ _).2 h) ha

/-- An aligned one inside them is performed. -/
theorem busChecked_eq_performed {addr : Addr} {w : Width} {k : State → State} {s : State}
    (h : insideWindow addr.toNat (widthBytes w)) (ha : addr.toNat % widthBytes w = 0) : busChecked addr w k s = k s :=
  busChecked_ok ((inWindow_iff_insideWindow _ _).2 h) ha

/-! ### Zero extension (20_memory.md R201) -/

/-- A halfword zero-extended to a word. -/
theorem word4_half (hi lo : Byte) : word4 0#8 0#8 hi lo = 0#16 ++ (hi ++ lo) :=
  BitVec.append_assoc (x₁ := 0#16)

/-! ### Bus reads (R400, R401, R402) -/

/-- A performed read answers the value loaded and changes nothing else. -/
theorem busRead_eq_performed {addr : Addr} {w : Width} {s : State} (h : insideWindow addr.toNat (widthBytes w))
    (ha : addr.toNat % widthBytes w = 0) : busRead addr w s = { s with response := .value (s.mem.load addr.toNat w) } :=
  busChecked_eq_performed h ha

/-- Settles O10: a read is its checks, then its answer (`busRead_eq_performed`); a byte is never misaligned. -/
theorem readTransactions : Obligations.ReadTransactions := by
  intro s a
  refine ⟨fun h => congrArg _ (busChecked_eq_afterRefusal (w := .byte) h), fun h => ?_,
    fun h => congrArg _ (busChecked_eq_afterRefusal (w := .half) h),
    fun h ha => congrArg _ (busChecked_eq_afterFault (w := .half) h ha), fun h ha => ?_,
    fun h => congrArg _ (busChecked_eq_afterRefusal (w := .word) h),
    fun h ha => congrArg _ (busChecked_eq_afterFault (w := .word) h ha),
    fun h ha => congrArg _ (busRead_eq_performed (w := .word) h ha)⟩
  · exact congrArg _ (busRead_eq_performed (w := .byte) h (Nat.mod_one _))
  · rw [← word4_half]
    exact congrArg _ (busRead_eq_performed (w := .half) h ha)

/-! ### The bytes a bus store writes (R407) -/

/-- A byte of a word by shifting. -/
theorem byteOf_eq_shift (v : Word) (k : Nat) : byteOf v k = (v >>> (8 * k)).setWidth 8 :=
  rfl

/-- WriteMask, byte by byte. -/
theorem byteOf_writeMask (m : Memory) (a : Nat) (v : Word) {k : Nat} (hk : k < 4) :
    byteOf (writeMask m a v) k = maskedByte m (a + k) (byteOf v k) := by
  obtain rfl | rfl | rfl | rfl : k = 0 ∨ k = 1 ∨ k = 2 ∨ k = 3 := by omega
  · exact byteOf_word4_0 _ _ _ _
  · exact byteOf_word4_1 _ _ _ _
  · exact byteOf_word4_2 _ _ _ _
  · exact byteOf_word4_3 _ _ _ _

/-- A width is at most a word. -/
theorem widthBytes_le (w : Width) : widthBytes w ≤ 4 := by cases w <;> decide

/-- A bus store, answered by any value, writes its bytes under WriteMask and nothing else but accumulators. -/
theorem busWrote_busStore (addr : Addr) (w : Width) (v : Word) (r : Response) {s : State} (hm : s.mem.wf) :
    busWrote s (respond r (busStore addr w v s)) addr.toNat (widthBytes w) v := by
  refine ⟨?_, fun x hx => ?_, fun k hk => ?_⟩
  · obtain ⟨a0, a1, he⟩ := busStore_frame addr w v s
    rw [he]
    rfl
  · rw [respond_mem, busStore_mem]
    exact Memory.read_store_other _ _ _ _ _ hx
  · rw [respond_mem, busStore_mem, Memory.read_store_same _ _ _ _ _ hm hk,
      byteOf_writeMask _ _ _ (Nat.lt_of_lt_of_le hk (widthBytes_le w)), byteOf_eq_shift]
    rfl

/-! ### The refresh of the accumulators (R409, R410) -/

/-- The monitor of construction for a slot is on the list (10_state.md R151): it covers the slot's two reference-point
registers. -/
theorem State.monitorsOk.exists_slot {s : State} (h : s.monitorsOk) (k : BitVec 1) :
    ∃ e ∈ s.monitors, e.slot = k ∧ e.base.toNat = ioAddr (slotOff k + 8) ∧ e.len.toNat = 8 := by
  have hlisted (e : Monitor) (he : e ∈ State.reset.monitors) : e ∈ s.monitors := h.subset he
  obtain rfl | rfl : k = 0#1 ∨ k = 1#1 := by revert k; decide
  · exact ⟨{ base := 0x04000028#32, len := 8#32, slot := 0#1 }, hlisted _ (.head _), rfl, rfl, rfl⟩
  · exact ⟨{ base := 0x04000038#32, len := 8#32, slot := 1#1 }, hlisted _ (.tail _ (.head _)), rfl, rfl, rfl⟩

/-- A write into a reference-point register of a slot meets a monitor of that slot. -/
theorem State.monitorsOk.exists_hit {s : State} (h : s.monitorsOk) (k : BitVec 1) {addr : Addr} (w : Width)
    (hq : addr.toNat / 4 * 4 = ioAddr (slotOff k + 8) ∨ addr.toNat / 4 * 4 = ioAddr (slotOff k + 12)) :
    ∃ e ∈ s.monitors, monitorHit e addr w = true ∧ e.slot = k := by
  obtain ⟨e, he, hslot, hbase, hlen⟩ := h.exists_slot k
  have hw : 0 < widthBytes w := by cases w <;> decide
  refine ⟨e, he, ?_, hslot⟩
  simp only [monitorHit, hbase, hlen, Bool.and_eq_true, decide_eq_true_eq]
  unfold ioAddr at hq ⊢
  omega

/-- Where the monitor of a register is sure to be met, a write into its word loads it from memory. -/
theorem refresh_of_met {addr : Addr} {off : Nat} {met : Prop} [Decidable (addr.toNat / 4 * 4 = ioAddr off ∧ met)]
    (m : Memory) (old : BitVec 28) (hmet : addr.toNat / 4 * 4 = ioAddr off → met) :
    (if addr.toNat / 4 * 4 = ioAddr off ∧ met then refPoint (m.load32 (wordAddr addr).toNat) else old) =
      if addr.toNat / 4 * 4 = ioAddr off then (reg32 m off).setWidth 28 else old := by
  by_cases hq : addr.toNat / 4 * 4 = ioAddr off
  · rw [if_pos ⟨hq, hmet hq⟩, if_pos hq, refPoint_eq, wordAddr_toNat, hq, reg32]
  · rw [if_neg fun h => hq h.1, if_neg hq]

/-- A bus store, answered by any value, refreshes the accumulator of the register it writes into and no other. -/
theorem accRefreshed_busStore (addr : Addr) (w : Width) (v : Word) (r : Response) {s : State} (h : s.monitorsOk) :
    accRefreshed s (respond r (busStore addr w v s)) addr.toNat := by
  unfold accRefreshed
  rw [respond_mem, busStore_mem]
  have hacc (m : Memory) := monitors_acc addr w (s.mem.load32 (wordAddr addr).toNat)
    (m.load32 (wordAddr addr).toNat) s.monitors { s with mem := m }
  have hmet (k : BitVec 1) := h.exists_hit k (addr := addr) w
  obtain ⟨hx0, hy0, hx1, hy1⟩ := hacc (s.mem.store addr.toNat w (writeMask s.mem addr.toNat v))
  refine ⟨?_, ?_, ?_, ?_⟩
  · exact hx0.trans (refresh_of_met (off := 0x028) _ _ fun hq => hmet 0#1 (.inl hq))
  · exact hy0.trans (refresh_of_met (off := 0x02C) _ _ fun hq => hmet 0#1 (.inr hq))
  · exact hx1.trans (refresh_of_met (off := 0x038) _ _ fun hq => hmet 1#1 (.inl hq))
  · exact hy1.trans (refresh_of_met (off := 0x03C) _ _ fun hq => hmet 1#1 (.inr hq))

/-! ### Bus writes (R403, R404, R405) -/

/-- A performed store, answered by any value, is what a bus write may do. -/
theorem busWriteDone_busStore {addr : Addr} {w : Width} (v : Word) (r : Response) {s : State} (hm : s.mem.wf)
    (h : insideWindow addr.toNat (widthBytes w)) (ha : addr.toNat % widthBytes w = 0) :
    busWriteDone s (respond r (busStore addr w v s)) addr (widthBytes w) v :=
  ⟨fun hout => absurd h hout, fun _ hne => absurd ha hne,
    fun _ _ => ⟨busWrote_busStore addr w v r hm, accRefreshed_busStore addr w v r⟩⟩

/-- A bus write is refused, faults, or stores. -/
theorem busWriteDone_busWrite (addr : Addr) (w : Width) (v : Word) {s : State} (hm : s.mem.wf) :
    busWriteDone s (busWrite addr w v s) addr (widthBytes w) v := by
  unfold busWrite
  by_cases h : insideWindow addr.toNat (widthBytes w)
  · by_cases ha : addr.toNat % widthBytes w = 0
    · rw [busChecked_eq_performed h ha]
      exact busWriteDone_busStore v .noValue hm h ha
    · rw [busChecked_eq_afterFault h ha]
      exact ⟨fun hout => absurd h hout, fun _ _ => rfl, fun _ heq => absurd heq ha⟩
  · rw [busChecked_eq_afterRefusal h]
    exact ⟨fun _ => rfl, fun hin => absurd hin h, fun hin => absurd hin h⟩

/-- Settles O12: each row is a bus write of its width (`busWriteDone_busWrite`). -/
theorem writeTransactions : Obligations.WriteTransactions := fun _ a ⟨hwf, _⟩ =>
  ⟨fun _ => ⟨_, rfl, busWriteDone_busWrite a .byte _ hwf⟩, fun _ => ⟨_, rfl, busWriteDone_busWrite a .half _ hwf⟩,
    fun v => ⟨_, rfl, busWriteDone_busWrite a .word v hwf⟩⟩

/-- A bus write answers no value, performed or not (60_exceptions.md R901, R902). -/
theorem busWrite_response (addr : Addr) (w : Width) (v : Word) (s : State) :
    (busWrite addr w v s).response = .noValue := by
  unfold busWrite
  obtain he | he | ⟨-, -, he⟩ := busChecked_cases addr w (fun t => respond .noValue (busStore addr w v t)) s
  all_goals rw [he]; rfl

/-- Settles O14: each row is a bus write (`busWrite_response`). -/
theorem writesAnswerNothing : Obligations.WritesAnswerNothing := by
  rintro s t a (⟨v, hexec⟩ | ⟨v, hexec⟩ | ⟨v, hexec⟩)
  all_goals
    obtain rfl := Host.Outcome.next.inj hexec
    exact busWrite_response ..

/-! ### The word compare-and-set (R406) -/

/-- A performed compare-and-set stores on the expected word only, and answers whether it did. -/
theorem busCas_eq_performed {addr : Addr} {expected update : Word} {s : State} (h : insideWindow addr.toNat 4)
    (ha : addr.toNat % 4 = 0) :
    busCas addr expected update s =
      if s.mem.load32 addr.toNat = expected then respond (.flag true) (busStore addr .word update s)
      else respond (.flag false) s :=
  busChecked_eq_performed (w := .word) h ha

/-- Settles O13: the checks, then the two outcomes of `busCas_eq_performed`; the word compared is the four bytes. -/
theorem compareAndSet : Obligations.CompareAndSet := by
  rintro s a e u ⟨hwf, -⟩
  refine ⟨fun h => congrArg _ (busChecked_eq_afterRefusal (w := .word) h),
    fun h ha => congrArg _ (busChecked_eq_afterFault (w := .word) h ha),
    fun h ha hne => congrArg _ ((busCas_eq_performed h ha).trans (if_neg hne)),
    fun h ha heq => ⟨_, congrArg Host.Outcome.next ((busCas_eq_performed h ha).trans (if_pos heq)), rfl, ?_⟩⟩
  exact busWriteDone_busStore (w := .word) u (.flag true) hwf h ha

/-! ### The monitors of a run (10_state.md R151, 70_reset_and_hazards.md R1005) -/

/-- A transaction keeps the monitors and the schedule if what follows its checks does. -/
theorem busChecked_busSide {addr : Addr} {w : Width} {k : State → State} {s : State} (hk : BusSideKept s (k s)) :
    BusSideKept s (busChecked addr w k s) := by
  obtain he | he | ⟨-, -, he⟩ := busChecked_cases addr w k s
  · rw [he]; exact ⟨rfl, rfl⟩
  · rw [he]; exact ⟨rfl, rfl⟩
  · rw [he]; exact hk

/-- A bus store, answered by any value, keeps them. -/
theorem busStore_busSide (addr : Addr) (w : Width) (v : Word) (r : Response) (s : State) :
    BusSideKept s (respond r (busStore addr w v s)) := by
  obtain ⟨a0, a1, he⟩ := busStore_frame addr w v s
  rw [he]
  exact ⟨rfl, rfl⟩

/-- A compare-and-set keeps them, whether it stores or not. -/
theorem busCas_busSide (addr : Addr) (expected update : Word) (s : State) :
    BusSideKept s (busCas addr expected update s) := by
  refine busChecked_busSide ?_
  split
  · exact busStore_busSide ..
  · exact ⟨rfl, rfl⟩

/-- A command of the script answers a next state with the monitors and the schedule of its own. -/
theorem exec_next_busSide {i : Instr} (hi : isScript i = true) (s : State) :
    ∃ t, exec i s = .next t ∧ BusSideKept s t := by
  cases i with
  | rd8 a => exact ⟨_, rfl, busChecked_busSide ⟨rfl, rfl⟩⟩
  | rd16 a => exact ⟨_, rfl, busChecked_busSide ⟨rfl, rfl⟩⟩
  | rd32 a => exact ⟨_, rfl, busChecked_busSide ⟨rfl, rfl⟩⟩
  | wr8 a v => exact ⟨_, rfl, busChecked_busSide (busStore_busSide ..)⟩
  | wr16 a v => exact ⟨_, rfl, busChecked_busSide (busStore_busSide ..)⟩
  | wr32 a v => exact ⟨_, rfl, busChecked_busSide (busStore_busSide ..)⟩
  | cas32 a expected update => exact ⟨_, rfl, busCas_busSide ..⟩
  | line => exact ⟨_, rfl, lineStep_busSide s⟩
  | stop => exact ⟨_, rfl, rfl, rfl⟩
  | _ => exact absurd hi Bool.false_ne_true

/-- What a command of the script answers has the monitors and the schedule of the state it is given in. -/
theorem exec_busSide {i : Instr} {s t : State} (hi : isScript i = true) (ht : exec i s = .next t) :
    BusSideKept s t := by
  obtain ⟨u, hu, hkept⟩ := exec_next_busSide hi s
  obtain rfl : u = t := Host.Outcome.next.inj (hu.symm.trans ht)
  exact hkept

/-- In a run the chosen move is one of a run's agents, and the entries that stay are a run's. -/
theorem State.isRun.of_nextMove {s : State} {e : Input} {rest : List Input} (h : s.isRun)
    (hm : nextMove s = some (e, rest)) :
    (∀ bytes, e ≠ .operation bytes) ∧ ({ s with schedule := rest } : State).isRun := by
  obtain ⟨-, pre, post, hs, rfl, -⟩ := nextMove_cases hm
  unfold State.isRun at h ⊢
  rw [hs] at h
  refine ⟨fun bytes he => h bytes (by simp [he]), fun bytes hmem => h bytes ?_⟩
  exact (List.Sublist.append_left (List.sublist_cons_self e post) pre).subset hmem

/-- A state with the monitors and the schedule of a run's is one of a run, with those monitors. -/
theorem BusSideKept.isRun {s t : State} (hk : BusSideKept s t) (h : s.isRun) : t.isRun ∧ t.monitors = s.monitors := by
  obtain ⟨hmonitors, hschedule⟩ := hk
  refine ⟨?_, hmonitors⟩
  unfold State.isRun
  rw [hschedule]
  exact h

/-- Settles O16: every move of a run's agents, by `step_cases`, keeps the monitors and the entries that stay. -/
theorem monitorRegistration : Obligations.MonitorRegistration := by
  refine ⟨fun _ _ _ _ => rfl, fun s t hrun hstep => ?_⟩
  obtain ⟨-, rfl⟩ | ⟨e, rest, hnext, hmove⟩ := step_cases hstep
  · exact (engineStep_busSide s).isRun hrun
  · obtain ⟨hagent, hrest⟩ := hrun.of_nextMove hnext
    have hkept : BusSideKept { s with schedule := rest } t := by
      obtain ⟨-, rfl⟩ | ⟨-, -, rfl⟩ | ⟨y, x, -, -, rfl⟩ | ⟨_, i, -, -, hi, hexec⟩ | ⟨bytes, i, he, -⟩ |
        ⟨_, -, rfl⟩ | ⟨_, cmd, addr, -, rfl⟩ := hmove
      · exact engineStep_busSide _
      · exact ⟨rfl, rfl⟩
      · exact ⟨rfl, rfl⟩
      · exact exec_busSide hi hexec
      · exact absurd he (hagent bytes)
      · exact ⟨rfl, rfl⟩
      · exact ⟨rfl, rfl⟩
    exact hkept.isRun hrest

end Sys2Proof.Machine
end

section
/-! ## Proofs of the statements about the Timing Engine (41_timing_engine.md) -/

namespace Sys2Proof.Machine

/-! ### The sub-steps, each in the terms of the claims (R501 to R512) -/

/-- A conditional trace entry as an update of the trace. -/
theorem emitIf_eq (c : Bool) (e : Event) (s : State) :
    emitIf c e s = { s with events := s.events ++ if c then [e] else [] } := by
  cases c
  · simp [emitIf]
  · rfl

/-- VBLANK_IE is bit 3 of the status byte. -/
theorem vblankIe_statusWord (m : Memory) : vblankIe (statusWord m) = (m.read 0x04000004).getLsbD 3 :=
  statusWord_bit m 3 (by decide)

/-- HBLANK_IE is bit 4 of the status byte. -/
theorem hblankIe_statusWord (m : Memory) : hblankIe (statusWord m) = (m.read 0x04000004).getLsbD 4 :=
  statusWord_bit m 4 (by decide)

/-- VCOUNT_IE is bit 5 of the status byte. -/
theorem vcountIe_statusWord (m : Memory) : vcountIe (statusWord m) = (m.read 0x04000004).getLsbD 5 :=
  statusWord_bit m 5 (by decide)

/-- VCOUNT_FLAG is bit 2 of the status byte. -/
theorem vcountFlag_statusWord (m : Memory) : vcountFlag (statusWord m) = (m.read 0x04000004).getLsbD 2 :=
  statusWord_bit m 2 (by decide)

/-- The line matches when it equals LYC (R502). -/
theorem vcountMatch_eq (s : State) : vcountMatch s = decide (s.line = s.lyc) := by
  rw [vcountMatch, lycOf_statusWord]
  exact beq_eq_decide _ _

/-- The line of the VBLANK entry by its number. -/
theorem line_toNat_eq_iff (l : Byte) (n : Nat) (hn : n < 256) : l.toNat = n ↔ l = BitVec.ofNat 8 n := by
  rw [← BitVec.toNat_inj, BitVec.toNat_ofNat, Nat.mod_eq_of_lt hn]

/-- S2 is its flag update and its request (R502, R503). -/
theorem subS2_eq (s : State) :
    subS2 s = { updateLineFlags s with
      events := s.events ++
        if s.line = s.lyc ∧ s.statusByte.getLsbD 5 = true then [.requestInterrupt .lcdVcounterMatch] else [] } := by
  rw [subS2, emitIf_eq, vcountMatch_eq, vcountIe_statusWord]
  simp [updateLineFlags]

/-- S4 at line 160 (R505, R506, R507). -/
theorem subS4_entry {s : State} (h : s.line = 160#8) :
    subS4 s =
      { s with
        framesReady := s.framesReady + 1, acc0 := loadAcc s.mem 0#1, acc1 := loadAcc s.mem 1#1,
        events := s.events ++ [.frameReady (s.framesReady + 1), .signal .vblank] ++
          if s.statusByte.getLsbD 3 = true then [.requestInterrupt .lcdVblank] else [] } := by
  rw [subS4, if_pos (by rw [h]; rfl), emitIf_eq, vblankIe_statusWord]
  simp [emit, signalFrameReady, reloadAccumulators]

/-- S4 at any other line. -/
theorem subS4_other {s : State} (h : s.line ≠ 160#8) : subS4 s = s :=
  if_neg fun hl => h ((line_toNat_eq_iff _ _ (by decide)).1 hl)

/-- A pair loaded from its registers, bits 27:0 (R621). -/
theorem loadAcc_eq (m : Memory) :
    loadAcc m 0#1 = { x := (reg32 m 0x028).setWidth 28, y := (reg32 m 0x02C).setWidth 28 } ∧
      loadAcc m 1#1 = { x := (reg32 m 0x038).setWidth 28, y := (reg32 m 0x03C).setWidth 28 } := by
  simp [loadAcc, refPoint_eq, bgRefX, bgRefY, slotOff]

/-- S6 is its flag update, the signal and the request (R509). -/
theorem subS6_eq (s : State) :
    subS6 s = { updateHblankFlag true s with
      events := s.events ++ [.signal .hblank] ++
        if s.line.toNat < 160 ∧ s.statusByte.getLsbD 4 = true then [.requestInterrupt .lcdHblank] else [] } := by
  rw [subS6, emitIf_eq, hblankIe_statusWord]
  simp [updateHblankFlag, emit, visible]

/-- The flags after the update of S2: VBLANK_FLAG and VCOUNT_FLAG are those of the line, every other bit is
kept (R502). -/
theorem updateLineFlags_bit {s : State} (hm : s.mem.wf) (b : Nat) :
    (updateLineFlags s).statusByte.getLsbD b =
      if b = 0 then decide (160 ≤ s.line.toNat) else if b = 2 then decide (s.line = s.lyc)
      else s.statusByte.getLsbD b := by
  unfold updateLineFlags
  rw [statusCas_bit _ _ _ hm, vcountMatch_eq, hblankFlag_statusWord, vblankLevel]
  by_cases hb : b = 1 <;> simp [hb]

/-- The flags after the update of S6 and S8: HBLANK_FLAG is the value given, every other bit is kept (R509, R511). -/
theorem updateHblankFlag_bit (v : Bool) {s : State} (hm : s.mem.wf) (b : Nat) :
    (updateHblankFlag v s).statusByte.getLsbD b = if b = 1 then v else s.statusByte.getLsbD b := by
  unfold updateHblankFlag
  rw [statusCas_bit _ _ _ hm, vblankFlag_statusWord, vcountFlag_statusWord]
  split
  · simp [*]
  · split
    · rfl
    · split <;> simp [*]

/-- The memory after S2. -/
theorem subStep_s2_mem (s : State) : (subStep .s2 s).mem = (updateLineFlags s).mem := emitIf_mem _ _ _

/-- The memory after S6. -/
theorem subStep_s6_mem (s : State) : (subStep .s6 s).mem = (updateHblankFlag true s).mem := emitIf_mem _ _ _

/-- The Engine's move at a phase. -/
theorem engineStep_at {s : State} {p : Phase} (hr : s.running = true) (hp : s.phase = p) :
    engineStep s = subStep p s := hp ▸ engineStep_running hr

/-- Settles O17: the halfword store of S1 writes VCOUNT (`subS1_vcount`) and no other byte. -/
theorem engineS1 : Obligations.EngineS1 := by
  rintro s ⟨hwf, -⟩ hr hp
  rw [engineStep_at hr hp]
  refine ⟨rfl, subS1_vcount hwf, fun x h6 h7 => ?_⟩
  exact Memory.read_store_other s.mem 0x04000006 x .half _ (by rw [widthBytes]; omega)

/-- Settles O18: the move is `subS2_eq`; its bits are those of `updateLineFlags_bit`. -/
theorem engineS2 : Obligations.EngineS2 := by
  rintro s ⟨hwf, -⟩ hr hp
  have hbit := updateLineFlags_bit hwf
  rw [engineStep_at hr hp]
  unfold State.statusByte
  rw [subStep_s2_mem]
  refine ⟨?_, fun x hx => statusCas_read_other _ _ _ hwf hx, hbit 0, hbit 2, fun b h0 h2 => ?_, fun hflags => ?_,
    fun hline hlyc => (hbit 2).trans (decide_eq_false fun he => ?_)⟩
  · exact congrArg (fun t : State => { t with phase := Phase.s3 }) (subS2_eq s)
  · exact (hbit b).trans ((if_neg h0).trans (if_neg h2))
  · obtain ⟨hblank, -⟩ := hflags
    rw [hblankFlag_statusWord, hp] at hblank
    exact (hbit 1).trans hblank
  · unfold State.lineOk at hline
    rw [he] at hline
    omega

/-- Settles O19: S3 is guarded by the visible line. -/
theorem engineS3 : Obligations.EngineS3 := by
  intro s hr hp
  rw [engineStep_at hr hp]
  refine ⟨fun hv => ?_, fun hb => ?_⟩
  · exact congrArg (fun t : State => { t with phase := Phase.s4 }) (onVisible_of_lt hv)
  · exact congrArg (fun t : State => { t with phase := Phase.s4 }) (onVisible_of_ge hb)

/-- Settles O20: `subS4_entry` at line 160, `subS4_other` elsewhere. -/
theorem engineS4 : Obligations.EngineS4 := by
  intro s hr hp
  obtain ⟨h0, h1⟩ := loadAcc_eq s.mem
  rw [engineStep_at hr hp, ← h0, ← h1]
  refine ⟨fun hl => ?_, fun hl => ?_⟩
  · exact congrArg (fun t : State => { t with phase := Phase.s5 }) (subS4_entry hl)
  · exact congrArg (fun t : State => { t with phase := Phase.s5 }) (subS4_other hl)

/-- Settles O21: the waits are always enabled and change nothing (log entry 7). -/
theorem engineWaits : Obligations.EngineWaits :=
  fun _ hr => ⟨fun hp => engineStep_at hr hp, fun hp => engineStep_at hr hp⟩

/-- Settles O22: the move is `subS6_eq`; its bits are those of `updateHblankFlag_bit`. -/
theorem engineS6 : Obligations.EngineS6 := by
  rintro s ⟨hwf, -⟩ hr hp
  have hbit := updateHblankFlag_bit true hwf
  rw [engineStep_at hr hp]
  unfold State.statusByte
  rw [subStep_s6_mem]
  refine ⟨?_, fun x hx => statusCas_read_other _ _ _ hwf hx, hbit 1, fun b hb => (hbit b).trans (if_neg hb)⟩
  exact congrArg (fun t : State => { t with phase := Phase.s7 }) (subS6_eq s)

/-- Settles O23: the bits are those of `updateHblankFlag_bit`. -/
theorem engineS8 : Obligations.EngineS8 := by
  rintro s ⟨hwf, -⟩ hr hp
  have hbit := updateHblankFlag_bit false hwf
  rw [engineStep_at hr hp]
  exact ⟨rfl, fun x hx => statusCas_read_other _ _ _ hwf hx, hbit 1, fun b hb => (hbit b).trans (if_neg hb)⟩

/-- S9 at the last line: back to line 0, and the shutdown flag is sampled (R512). -/
theorem subS9_wrap {s : State} (h : s.line = 227#8) :
    subS9 s = { s with line := 0#8, running := s.running && !s.stopRequested } :=
  if_pos (by rw [h]; rfl)

/-- S9 at any other line. -/
theorem subS9_other {s : State} (h : s.line ≠ 227#8) : subS9 s = { s with line := s.line + 1#8 } :=
  if_neg fun hl => h ((line_toNat_eq_iff _ _ (by decide)).1 (Nat.succ.inj hl))

/-- Settles O24: the two branches of S9; every other sub-step keeps the Engine running (`subStep_running`), and a
stopped Engine takes none. -/
theorem engineS9AndStop : Obligations.EngineS9AndStop := by
  refine fun s => ⟨fun hr hp hl => ?_, fun hr hp hl => ?_, fun hp => ?_, rfl, fun hr => ⟨engineStep_stopped hr, ?_⟩⟩
  · have hne : s.line ≠ 227#8 := fun he => by rw [he] at hl; exact absurd hl (by decide)
    rw [engineStep_at hr hp]
    exact congrArg (fun t : State => { t with phase := Phase.s1 }) (subS9_other hne)
  · rw [engineStep_at hr hp]
    refine (congrArg (fun t : State => { t with phase := Phase.s1 }) (subS9_wrap hl)).trans ?_
    rw [hr, Bool.true_and]
  · cases hr : s.running
    · rw [engineStep_stopped hr, hr]
    · rw [engineStep_running hr, subStep_running hp, hr]
  · show (.next (lineStep s) : Outcome) = .next s
    rw [lineStep, if_neg (by simp [hr])]

end Sys2Proof.Machine
end

section
/-! ## Proofs of the statements about a line step and a frame (41_timing_engine.md R500, R515, R516) -/

namespace Sys2Proof.Machine

/-! ### A line step is its nine sub-steps (R500) -/

/-- Sub-steps that follow each other, from the phase a running Engine stands at, are as many moves of the Engine. -/
theorem foldl_subStep_eq_iterate {s : State} {qs : List Phase} (hr : s.running = true)
    (hqs : (s.phase :: qs).IsChain FollowsInLine) :
    (s.phase :: qs).foldl (fun t p => subStep p t) s = engineStep^[qs.length + 1] s := by
  induction qs generalizing s with
  | nil => exact (engineStep_running hr).symm
  | cons q qs ih =>
    obtain ⟨⟨hlast, rfl⟩, htail⟩ := List.isChain_cons_cons.1 hqs
    rw [List.length_cons, Function.iterate_succ_apply, engineStep_running hr]
    exact ih (s := subStep s.phase s) ((subStep_running hlast s).trans hr) htail

/-- From S1 a line step is nine moves of the Engine. -/
theorem lineStep_eq_iterate {s : State} (h : s.atLine) : lineStep s = engineStep^[9] s := by
  obtain ⟨hr, hp⟩ := h
  rw [lineStep, if_pos hr]
  obtain ⟨qs, hqs, hchain⟩ := phasesFrom_chain s.phase
  have hlen : qs.length + 1 = 9 := by
    rw [← List.length_cons, ← hqs, hp]
    rfl
  rw [hqs, foldl_subStep_eq_iterate hr hchain, hlen]

/-- Settles O25: each of the rows is `lineStep` at its lines. -/
theorem lineIsNineSubSteps : Obligations.LineIsNineSubSteps := by
  intro s h
  have hstep := lineStep_eq_iterate h
  refine ⟨congrArg _ hstep, fun hl => ?_, fun hl => ?_, fun hl => ?_⟩
  · exact congrArg _ ((if_pos hl).trans hstep)
  · exact congrArg _ ((if_pos ((line_toNat_eq_iff _ _ (by decide)).2 hl)).trans hstep)
  · exact congrArg _ ((if_pos hl).trans hstep)

/-! ### Everything a sub-step does -/

/-- The memory that a sub-step leaves (R501, R502, R509, R511). -/
def memAfter (p : Phase) (s : State) : Memory :=
  match p with
  | .s1 => (subS1 s).mem
  | .s2 => (updateLineFlags s).mem
  | .s6 => (updateHblankFlag true s).mem
  | .s8 => (updateHblankFlag false s).mem
  | _ => s.mem

/-- What a sub-step appends to the trace (R503, R505, R507, R509). -/
def phaseEvents (p : Phase) (s : State) : List Event :=
  match p with
  | .s2 => if s.line = s.lyc ∧ s.statusByte.getLsbD 5 = true then [.requestInterrupt .lcdVcounterMatch] else []
  | .s4 =>
    if s.line = 160#8 then
      [.frameReady (s.framesReady + 1), .signal .vblank] ++
        if s.statusByte.getLsbD 3 = true then [.requestInterrupt .lcdVblank] else []
    else []
  | .s6 =>
    [.signal .hblank] ++
      if s.line.toNat < 160 ∧ s.statusByte.getLsbD 4 = true then [.requestInterrupt .lcdHblank] else []
  | _ => []

/-- The frame counter after a sub-step: S4 counts at line 160 (R505). -/
def framesAfter (p : Phase) (s : State) : Nat :=
  match p with
  | .s4 => if s.line = 160#8 then s.framesReady + 1 else s.framesReady
  | _ => s.framesReady

/-- An accumulator pair after a sub-step: S3 advances it on a visible line, S4 reloads it at line 160 (R504, R506). -/
def accAfter (p : Phase) (s : State) (slot : BitVec 1) : Acc :=
  match p with
  | .s3 => if s.line.toNat < 160 then advanceAcc s.mem slot (accOf s slot) else accOf s slot
  | .s4 => if s.line = 160#8 then loadAcc s.mem slot else accOf s slot
  | _ => accOf s slot

/-- The line after a sub-step: S9 moves on (R512). -/
def lineAfter (p : Phase) (s : State) : Byte :=
  match p with
  | .s9 => if s.line = 227#8 then 0#8 else s.line + 1#8
  | _ => s.line

/-- Whether the Engine runs after a sub-step: S9 of line 227 samples the shutdown flag (R512). -/
def runningAfter (p : Phase) (s : State) : Bool :=
  match p with
  | .s9 => if s.line = 227#8 then s.running && !s.stopRequested else s.running
  | _ => s.running

/-- The frame buffer after a sub-step: S3 alone writes it (R504). -/
def fbAfter (p : Phase) (s : State) : List (List Half) :=
  match p with
  | .s3 => (subS3 s).fb
  | _ => s.fb

/-- S3 leaves the accumulators of `accAfter`; else it writes the line buffers, the frame buffer and the draws only. -/
theorem subS3_eq (s : State) :
    subS3 s =
      { s with
        lb0 := (subS3 s).lb0, lb1 := (subS3 s).lb1, lb2 := (subS3 s).lb2, lb3 := (subS3 s).lb3, lb4 := (subS3 s).lb4,
        lb5 := (subS3 s).lb5, fb := (subS3 s).fb, acc0 := accAfter .s3 s 0#1, acc1 := accAfter .s3 s 1#1,
        draws := (subS3 s).draws } := by
  simp only [subS3, accAfter]
  by_cases hv : s.line.toNat < 160
  · obtain ⟨h0, h1⟩ := renderLine_acc s
    rw [onVisible_of_lt hv, if_pos hv, if_pos hv, renderWritesNoBusState s, h0, h1]
    rfl
  · rw [onVisible_of_ge (Nat.le_of_not_lt hv), if_neg hv, if_neg hv]
    rfl

/-- Everything a sub-step does: the line buffers, the clock and the draws are left open, what is not named is kept. -/
theorem subStep_eq (p : Phase) (s : State) :
    subStep p s =
      { s with
        mem := memAfter p s, line := lineAfter p s, phase := nextPhase p, running := runningAfter p s,
        framesReady := framesAfter p s, events := s.events ++ phaseEvents p s, fb := fbAfter p s,
        acc0 := accAfter p s 0#1, acc1 := accAfter p s 1#1, lb0 := (subStep p s).lb0, lb1 := (subStep p s).lb1,
        lb2 := (subStep p s).lb2, lb3 := (subStep p s).lb3, lb4 := (subStep p s).lb4, lb5 := (subStep p s).lb5,
        tLine := (subStep p s).tLine, clockReads := (subStep p s).clockReads, draws := (subStep p s).draws } := by
  cases p
  case s2 =>
    simp only [subStep, phaseAction, subS2_eq]
    rfl
  case s3 =>
    simp only [subStep, phaseAction, phaseEvents, List.append_nil]
    rw [subS3_eq]
    rfl
  case s4 =>
    simp only [subStep, phaseAction, phaseEvents, framesAfter, accAfter]
    by_cases hl : s.line = 160#8
    · simp only [subS4_entry hl, if_pos hl, List.append_assoc]
      rfl
    · simp only [subS4_other hl, if_neg hl, List.append_nil]
      rfl
  case s6 =>
    simp only [subStep, phaseAction, subS6_eq, List.append_assoc]
    rfl
  case s9 =>
    simp only [subStep, phaseAction, phaseEvents, lineAfter, runningAfter, List.append_nil]
    by_cases hl : s.line = 227#8
    · simp only [subS9_wrap hl, if_pos hl]
      rfl
    · simp only [subS9_other hl, if_neg hl]
      rfl
  all_goals
    simp only [phaseEvents, List.append_nil]
    rfl

/-! The fields of `subStep_eq`, one by one. -/

@[simp] theorem subStep_mem (p : Phase) (s : State) : (subStep p s).mem = memAfter p s :=
  congrArg State.mem (subStep_eq p s)

@[simp] theorem subStep_line (p : Phase) (s : State) : (subStep p s).line = lineAfter p s :=
  congrArg State.line (subStep_eq p s)

@[simp] theorem subStep_runningAfter (p : Phase) (s : State) : (subStep p s).running = runningAfter p s :=
  congrArg State.running (subStep_eq p s)

@[simp] theorem subStep_framesReady (p : Phase) (s : State) : (subStep p s).framesReady = framesAfter p s :=
  congrArg State.framesReady (subStep_eq p s)

@[simp] theorem subStep_events (p : Phase) (s : State) : (subStep p s).events = s.events ++ phaseEvents p s :=
  congrArg State.events (subStep_eq p s)

@[simp] theorem subStep_fb (p : Phase) (s : State) : (subStep p s).fb = fbAfter p s :=
  congrArg State.fb (subStep_eq p s)

@[simp] theorem subStep_accOf (p : Phase) (s : State) (slot : BitVec 1) :
    accOf (subStep p s) slot = accAfter p s slot := by
  rw [subStep_eq]
  obtain rfl | rfl : slot = 0#1 ∨ slot = 1#1 := by revert slot; decide
  · rfl
  · rfl

@[simp] theorem subStep_stopRequested (p : Phase) (s : State) : (subStep p s).stopRequested = s.stopRequested := by
  rw [subStep_eq]

/-- A state that differs from `s` only in what the sub-steps of a line write. -/
def LineFrame (s t : State) : Prop :=
  t = { s with
    mem := t.mem, line := t.line, phase := t.phase, running := t.running, framesReady := t.framesReady,
    events := t.events, fb := t.fb, acc0 := t.acc0, acc1 := t.acc1, lb0 := t.lb0, lb1 := t.lb1, lb2 := t.lb2,
    lb3 := t.lb3, lb4 := t.lb4, lb5 := t.lb5, tLine := t.tLine, clockReads := t.clockReads, draws := t.draws }

/-- Such changes add up. -/
theorem LineFrame.trans {s t u : State} (h : LineFrame s t) (k : LineFrame t u) : LineFrame s u := by
  unfold LineFrame at *
  refine k.trans ?_
  rw [h]

/-- A sub-step writes nothing else. -/
theorem subStep_frame (p : Phase) (s : State) : LineFrame s (subStep p s) := by
  unfold LineFrame
  rw [subStep_eq]

/-! ### The memory after a sub-step -/

/-- A sub-step keeps the memory canonical and inside the windows. -/
theorem subStep_memOk (p : Phase) {s : State} (hm : s.memOk) : (subStep p s).memOk := by
  unfold State.memOk
  rw [subStep_mem]
  cases p
  case s1 => exact store_memOk (a := 0x04000006) (w := .half) (s.line.setWidth 32) hm (by decide)
  case s2 => exact statusCas_memOk _ _ _ hm
  case s6 => exact statusCas_memOk _ _ _ hm
  case s8 => exact statusCas_memOk _ _ _ hm
  all_goals exact hm

/-- A sub-step writes no byte but the status byte and VCOUNT. -/
theorem memAfter_read (p : Phase) {s : State} (hm : s.memOk) {x : Nat} (h4 : x ≠ 0x04000004) (h6 : x ≠ 0x04000006)
    (h7 : x ≠ 0x04000007) : (memAfter p s).read x = s.mem.read x := by
  cases p
  case s1 => exact Memory.read_store_other s.mem 0x04000006 x .half _ (by rw [widthBytes]; omega)
  case s2 => exact statusCas_read_other _ _ _ hm.1 h4
  case s6 => exact statusCas_read_other _ _ _ hm.1 h4
  case s8 => exact statusCas_read_other _ _ _ hm.1 h4
  all_goals rfl

/-- The compare-and-set of the flags keeps VCOUNT. -/
theorem statusCas_vcount (v h c : Bool) {s : State} (hm : s.mem.wf) : vcount (statusCas v h c s).mem = vcount s.mem :=
  vcount_eq_of_read (statusCas_read_other v h c hm (by decide)) (statusCas_read_other v h c hm (by decide))

/-- Only S1 writes VCOUNT. -/
theorem memAfter_vcount (p : Phase) {s : State} (hm : s.memOk) :
    vcount (memAfter p s) = if p = .s1 then s.line.setWidth 16 else vcount s.mem := by
  cases p
  case s1 => exact subS1_vcount hm.1
  case s2 => exact statusCas_vcount _ _ _ hm.1
  case s6 => exact statusCas_vcount _ _ _ hm.1
  case s8 => exact statusCas_vcount _ _ _ hm.1
  all_goals rfl

/-- Bit `b` of the status byte after a sub-step. -/
def statusBitAfter (p : Phase) (s : State) (b : Nat) : Bool :=
  match p with
  | .s2 =>
    if b = 0 then decide (160 ≤ s.line.toNat) else if b = 2 then decide (s.line = s.lyc)
    else s.statusByte.getLsbD b
  | .s6 => if b = 1 then true else s.statusByte.getLsbD b
  | .s8 => if b = 1 then false else s.statusByte.getLsbD b
  | _ => s.statusByte.getLsbD b

/-- The bits of the status byte in the memory that a sub-step leaves. -/
theorem memAfter_statusBit (p : Phase) {s : State} (hm : s.memOk) (b : Nat) :
    ((memAfter p s).read 0x04000004).getLsbD b = statusBitAfter p s b := by
  cases p
  case s1 => exact congrArg (·.getLsbD b) (subS1_statusByte s)
  case s2 => exact updateLineFlags_bit hm.1 b
  case s6 => exact updateHblankFlag_bit true hm.1 b
  case s8 => exact updateHblankFlag_bit false hm.1 b
  all_goals rfl

/-- A sub-step keeps the bits that are no flags. -/
theorem statusBitAfter_enable (p : Phase) (s : State) {b : Nat} (hb : 3 ≤ b) :
    statusBitAfter p s b = s.statusByte.getLsbD b := by
  cases p
  case s2 => exact (if_neg (by omega)).trans (if_neg (by omega))
  case s6 => exact if_neg (by omega)
  case s8 => exact if_neg (by omega)
  all_goals rfl

/-- After S2 the sub-steps keep VBLANK_FLAG and VCOUNT_FLAG. -/
theorem statusBitAfter_lineFlag (p : Phase) (s : State) (hp : p.flagged = true) {b : Nat} (hb : b ≠ 1) :
    statusBitAfter p s b = s.statusByte.getLsbD b := by
  cases p
  case s2 => exact absurd hp Bool.false_ne_true
  case s6 => exact if_neg hb
  case s8 => exact if_neg hb
  all_goals rfl

/-! ### The course of a line step -/

/-- The state in which a line step from `s` performs sub-step `p`. -/
def reached (p : Phase) (s : State) : State := ((phasesFrom .s1).takeWhile (· ≠ p)).foldl (fun t q => subStep q t) s

/-- A line step ends with S9. -/
theorem lineStep_eq {s : State} (h : s.atLine) : lineStep s = subStep .s9 (reached .s9 s) := by
  obtain ⟨hr, hp⟩ := h
  rw [lineStep, if_pos hr, hp]
  rfl

/-- What holds at S1 and is carried from each sub-step to the next holds in the whole course. -/
theorem reached_induction {P : Phase → State → Prop} {s : State} (start : P .s1 s)
    (next : ∀ p t, p ≠ .s9 → P p t → P (nextPhase p) (subStep p t)) (p : Phase) : P p (reached p s) := by
  have h2 : P .s2 (reached .s2 s) := next .s1 _ nofun start
  have h3 : P .s3 (reached .s3 s) := next .s2 _ nofun h2
  have h4 : P .s4 (reached .s4 s) := next .s3 _ nofun h3
  have h5 : P .s5 (reached .s5 s) := next .s4 _ nofun h4
  have h6 : P .s6 (reached .s6 s) := next .s5 _ nofun h5
  have h7 : P .s7 (reached .s7 s) := next .s6 _ nofun h6
  have h8 : P .s8 (reached .s8 s) := next .s7 _ nofun h7
  have h9 : P .s9 (reached .s9 s) := next .s8 _ nofun h8
  cases p
  case s1 => exact start
  all_goals assumption

/-- Where a line step of `s` performs sub-step `p` in `t`: the memory holds what the sub-steps before `p` have
written. -/
structure LineStage (s : State) (p : Phase) (t : State) : Prop where
  memOk : t.memOk
  line : t.line = s.line
  read : ∀ x, x ≠ 0x04000004 → x ≠ 0x04000006 → x ≠ 0x04000007 → t.mem.read x = s.mem.read x
  vcount : p ≠ .s1 → vcount t.mem = s.line.setWidth 16
  enables : ∀ b, 3 ≤ b → t.statusByte.getLsbD b = s.statusByte.getLsbD b
  flags : p.flagged = true → t.statusByte.getLsbD 0 = decide (160 ≤ s.line.toNat) ∧
    t.statusByte.getLsbD 2 = decide (s.line = s.lyc)
  hblank : p = .s9 → t.statusByte.getLsbD 1 = false

/-- Each sub-step leads to the stage of the next. -/
theorem LineStage.next {s t : State} {p : Phase} (hp : p ≠ .s9) (h : LineStage s p t) :
    LineStage s (nextPhase p) (subStep p t) where
  memOk := subStep_memOk p h.memOk
  line := by
    rw [subStep_line, ← h.line]
    cases p
    case s9 => exact absurd rfl hp
    all_goals rfl
  read x h4 h6 h7 := by rw [subStep_mem, memAfter_read p h.memOk h4 h6 h7, h.read x h4 h6 h7]
  vcount _ := by
    rw [subStep_mem, memAfter_vcount p h.memOk]
    split
    · rw [h.line]
    next h1 => exact h.vcount h1
  enables b hb := by
    rw [State.statusByte, subStep_mem, memAfter_statusBit p h.memOk, statusBitAfter_enable p t hb, h.enables b hb]
  flags hf := by
    simp only [State.statusByte, subStep_mem, memAfter_statusBit p h.memOk]
    cases hq : p.flagged
    · have hp2 : p = .s2 := by
        cases p
        case s2 => rfl
        all_goals contradiction
      subst hp2
      simp [statusBitAfter, h.line, h.read]
    · rw [statusBitAfter_lineFlag p t hq (by decide), statusBitAfter_lineFlag p t hq (by decide)]
      exact h.flags hq
  hblank h9 := by
    have hp8 : p = .s8 := by
      cases p
      case s8 => rfl
      all_goals contradiction
    rw [State.statusByte, subStep_mem, memAfter_statusBit p h.memOk, hp8]
    rfl

/-- The stages of a line step. -/
theorem reached_stage {s : State} (hm : s.memOk) (p : Phase) : LineStage s p (reached p s) :=
  reached_induction
    { memOk := hm, line := rfl, read := fun _ _ _ _ => rfl, vcount := fun h => absurd rfl h,
      enables := fun _ _ => rfl, flags := nofun, hblank := nofun }
    (fun _ _ hp h => h.next hp) p

/-- At its stage a sub-step appends what it would append in `s`. -/
theorem LineStage.phaseEvents_eq {s t : State} {p : Phase} (h : LineStage s p t)
    (hframes : p = .s4 → t.framesReady = s.framesReady) : phaseEvents p t = phaseEvents p s := by
  have hlyc : t.lyc = s.lyc := h.read _ (by decide) (by decide) (by decide)
  cases p
  case s2 => simp only [phaseEvents, h.line, hlyc, h.enables 5 (by decide)]
  case s4 => simp only [phaseEvents, h.line, hframes rfl, h.enables 3 (by decide)]
  case s6 => simp only [phaseEvents, h.line, h.enables 4 (by decide)]
  all_goals rfl

/-- Memories that agree outside the status byte and VCOUNT load the same accumulators. -/
theorem loadAcc_eq_of_read {m n : Memory}
    (h : ∀ x, x ≠ 0x04000004 → x ≠ 0x04000006 → x ≠ 0x04000007 → n.read x = m.read x) (slot : BitVec 1) :
    loadAcc n slot = loadAcc m slot := by
  have hword {off : Nat} (hoff : 8 ≤ off) : reg32 n off = reg32 m off := by
    have hbyte {x : Nat} (hx : 0x04000008 ≤ x) : n.read x = m.read x := h x (by omega) (by omega) (by omega)
    have ha : 0x04000008 ≤ ioAddr off := by unfold ioAddr; omega
    unfold reg32 Memory.load32
    rw [hbyte ha, hbyte (by omega), hbyte (by omega), hbyte (by omega)]
  unfold loadAcc bgRefX bgRefY
  rw [hword (by omega), hword (by omega)]

/-- Before S3 neither the line nor the frame buffer is touched. -/
theorem reached_s3 (s : State) : (reached .s3 s).line = s.line ∧ (reached .s3 s).fb = s.fb := by
  simp [reached, phasesFrom, lineAfter, fbAfter]

/-! ### What a line step leaves -/

section
variable {s : State} (h : s.atLine)
include h

/-- The Engine stands at S1 again (log entry 24). -/
theorem lineStep_phase : (lineStep s).phase = .s1 := by
  rw [lineStep_eq h]
  rfl

/-- The next line, 0 after 227. -/
theorem lineStep_line : (lineStep s).line = if s.line = 227#8 then 0#8 else s.line + 1#8 := by
  simp [lineStep_eq h, reached, phasesFrom, lineAfter]

/-- The shutdown flag is sampled at line 227 only. -/
theorem lineStep_running : (lineStep s).running = if s.line = 227#8 then !s.stopRequested else true := by
  simp [lineStep_eq h, reached, phasesFrom, runningAfter, lineAfter, h.1]

/-- A frame is counted at line 160 only. -/
theorem lineStep_framesReady :
    (lineStep s).framesReady = if s.line = 160#8 then s.framesReady + 1 else s.framesReady := by
  simp [lineStep_eq h, reached, phasesFrom, framesAfter, lineAfter]

/-- The frame buffer is the one that S3 leaves. -/
theorem lineStep_fb : (lineStep s).fb = (subS3 (reached .s3 s)).fb := by
  simp [lineStep_eq h, reached, phasesFrom, fbAfter]

/-- From line 160 on nothing is rendered. -/
theorem lineStep_fb_of_ge (hb : 160 ≤ s.line.toNat) : (lineStep s).fb = s.fb := by
  obtain ⟨hline, hfb⟩ := reached_s3 s
  rw [lineStep_fb h, subS3, onVisible_of_ge (hline ▸ hb), hfb]

/-- Below line 160 only the row of the line is written. -/
theorem lineStep_fb_other {y : Nat} (hy : y ≠ s.line.toNat) : (lineStep s).fb[y]? = s.fb[y]? := by
  obtain ⟨hline, hfb⟩ := reached_s3 s
  by_cases hv : s.line.toNat < 160
  · have hv3 : (reached .s3 s).line.toNat < 160 := hline ▸ hv
    obtain ⟨row, hrow, -⟩ := renderLine_writesSameRow (s := reached .s3 s) ⟨rfl, rfl, rfl, rfl, rfl⟩ hv3
    rw [lineStep_fb h, subS3, onVisible_of_lt hv3, hrow, hline, hfb, List.getElem?_set_ne (Ne.symm hy)]
  · rw [lineStep_fb_of_ge h (Nat.le_of_not_lt hv)]

/-- A line step writes only what its sub-steps write. -/
theorem lineStep_frame : LineFrame s (lineStep s) := by
  rw [lineStep_eq h]
  have hcourse : LineFrame s (reached .s9 s) :=
    reached_induction (P := fun _ t => LineFrame s t) (s := s) rfl (fun p t _ ht => ht.trans (subStep_frame p t)) .s9
  exact hcourse.trans (subStep_frame .s9 _)

variable (hm : s.memOk)
include hm

/-- The memory stays canonical and inside the windows. -/
theorem lineStep_memOk : (lineStep s).memOk := by
  rw [lineStep_eq h]
  exact subStep_memOk _ (reached_stage hm .s9).memOk

/-- VCOUNT holds the line. -/
theorem lineStep_vcount : vcount (lineStep s).mem = s.line.setWidth 16 := by
  rw [lineStep_eq h, subStep_mem]
  exact (reached_stage hm .s9).vcount nofun

/-- No byte but the status byte and VCOUNT is written. -/
theorem lineStep_read {x : Nat} (h4 : x ≠ 0x04000004) (h6 : x ≠ 0x04000006) (h7 : x ≠ 0x04000007) :
    (lineStep s).mem.read x = s.mem.read x := by
  rw [lineStep_eq h, subStep_mem]
  exact (reached_stage hm .s9).read x h4 h6 h7

/-- The bits of the status byte: the three flags are those of the line, with HBLANK_FLAG 0, the others are kept. -/
theorem lineStep_statusBit (b : Nat) : (lineStep s).statusByte.getLsbD b =
    if b = 0 then decide (160 ≤ s.line.toNat) else if b = 1 then false else if b = 2 then decide (s.line = s.lyc)
    else s.statusByte.getLsbD b := by
  have h9 := reached_stage hm .s9
  obtain ⟨hvblank, hvcount⟩ := h9.flags rfl
  rw [lineStep_eq h, State.statusByte, subStep_mem]
  split
  · subst b; exact hvblank
  · split
    · subst b; exact h9.hblank rfl
    · split
      · subst b; exact hvcount
      · exact h9.enables b (by omega)

/-- The trace grows by the entries of S2, S4 and S6, with the registers of `s` (R516). -/
theorem lineStep_events :
    (lineStep s).events = s.events ++ phaseEvents .s2 s ++ phaseEvents .s4 s ++ phaseEvents .s6 s := by
  have h4 : (reached .s4 s).framesReady = s.framesReady := by simp [reached, phasesFrom, framesAfter]
  rw [← (reached_stage hm .s2).phaseEvents_eq nofun, ← (reached_stage hm .s4).phaseEvents_eq fun _ => h4,
    ← (reached_stage hm .s6).phaseEvents_eq nofun]
  simp [lineStep_eq h, reached, phasesFrom, phaseEvents]

/-- From line 160 on an accumulator pair changes at line 160 only, by the reload. -/
theorem lineStep_accOf (hb : 160 ≤ s.line.toNat) (slot : BitVec 1) :
    accOf (lineStep s) slot = if s.line = 160#8 then loadAcc s.mem slot else accOf s slot := by
  rw [← loadAcc_eq_of_read (reached_stage hm .s4).read]
  simp [lineStep_eq h, reached, phasesFrom, accAfter, lineAfter, Nat.not_lt.2 hb]

end

/-- Settles O26: the trace of `lineStep_events`. -/
theorem lineTrace : Obligations.LineTrace := by
  intro s hm h
  refine ⟨_, rfl, (lineStep_events h hm).trans ?_⟩
  by_cases hl : s.line = 160#8
  · simp [phaseEvents, hl]
  · simp [phaseEvents, hl]

/-- Settles O27: the fields of a line step, one by one; all others are kept (`lineStep_frame`). -/
theorem lineEndState : Obligations.LineEndState := by
  intro s hm _ h
  have hbit := lineStep_statusBit h hm
  refine ⟨lineStep s, rfl, lineStep_phase h, lineStep_line h, lineStep_running h, lineStep_framesReady h,
    lineStep_vcount h hm, hbit 0, hbit 1, hbit 2, fun b hb => ?_, fun x => lineStep_read h hm,
    fun y => lineStep_fb_other h, lineStep_fb_of_ge h, ?_⟩
  · exact (hbit b).trans ((if_neg (by omega)).trans ((if_neg (by omega)).trans (if_neg (by omega))))
  · have hframe := lineStep_frame h
    unfold LineFrame at hframe
    rwa [(lineStep_phase h).trans h.2.symm] at hframe

end Sys2Proof.Machine
end

section
/-! ## Proof of the statement about a frame of 228 lines (41_timing_engine.md R515) -/

namespace Sys2Proof.Machine

/-! ### A run of LINE commands (30_encoding.md R341) -/

/-- The next entry of the schedule is taken off and a line step performed. -/
def lineCommand (s : State) : State := lineStep { s with schedule := s.schedule.tail }

/-- A LINE command at the head of the schedule is what the next step performs. -/
theorem step_line {s : State} {rest : List Input} (hs : s.schedule = .command (encode .line) :: rest) :
    step s = .next (lineCommand s) := by
  have hdecode : decode (encode .line) = .ok .line := Laws.RoundTrip.roundTrip .line rfl
  rw [lineCommand, hs]
  exact (step_head hs rfl).trans (command_ok hdecode rfl)

/-- A run by its first step. -/
theorem run_succ_of_step {M : Host.Core} {s t : M.State} (n : Nat) (h : M.step s = .next t) :
    M.run (n + 1) s = M.run n t := by
  simp [Host.Core.run, h]

/-- A run over `n` scheduled lines. -/
theorem run_lines (n : Nat) {s : State} (hs : s.linesScheduled n) :
    Host.Core.run core n s = .next (lineCommand^[n] s) := by
  induction n generalizing s with
  | zero => rfl
  | succ n ih =>
    have hstep : core.step s = .next (lineCommand s) := step_line (hs.trans List.replicate_succ)
    have hrest : (lineCommand s).linesScheduled n := (lineStep_busSide _).2.trans (congrArg List.tail hs)
    exact (run_succ_of_step n hstep).trans (ih hrest)

/-! ### The course of a frame -/

/-- What line `l` of a frame appends to the trace, with the registers and the frame counter of `s` (R516). -/
def lineEvents (s : State) (l : Nat) : List Event :=
  (if l = s.lyc.toNat ∧ s.statusByte.getLsbD 5 = true then [Event.requestInterrupt .lcdVcounterMatch] else []) ++
    (if l = 160 then [Event.frameReady (s.framesReady + 1), .signal .vblank] else []) ++
    (if l = 160 ∧ s.statusByte.getLsbD 3 = true then [Event.requestInterrupt .lcdVblank] else []) ++
    [Event.signal .hblank] ++
    (if l < 160 ∧ s.statusByte.getLsbD 4 = true then [Event.requestInterrupt .lcdHblank] else [])

/-- `t` is where `k` lines of a frame lead from `s` at line 0. -/
structure FrameStage (s : State) (k : Nat) (t : State) : Prop where
  memOk : t.memOk
  phase : t.phase = .s1
  line : t.line = BitVec.ofNat 8 (k % 228)
  running : t.running = if k = 228 then !s.stopRequested else true
  stopRequested : t.stopRequested = s.stopRequested
  read : ∀ x, x ≠ 0x04000004 → x ≠ 0x04000006 → x ≠ 0x04000007 → t.mem.read x = s.mem.read x
  enables : ∀ b, 3 ≤ b → t.statusByte.getLsbD b = s.statusByte.getLsbD b
  framesReady : t.framesReady = if k ≤ 160 then s.framesReady else s.framesReady + 1
  accOf : 160 < k → ∀ slot, accOf t slot = loadAcc s.mem slot
  events : t.events = s.events ++ (List.range k).flatMap (lineEvents s)

/-- The line of a stage. -/
theorem FrameStage.line_toNat {s t : State} {k : Nat} (h : FrameStage s k t) (hk : k < 228) : t.line.toNat = k := by
  rw [h.line, BitVec.toNat_ofNat]
  omega

/-- The line of a stage, compared. -/
theorem FrameStage.line_eq_iff {s t : State} {k : Nat} (h : FrameStage s k t) (hk : k < 228) (n : Nat) (hn : n < 256) :
    t.line = BitVec.ofNat 8 n ↔ k = n := by
  rw [← line_toNat_eq_iff _ _ hn, h.line_toNat hk]

/-- Before the end of the frame the Engine stands at the start of a line. -/
theorem FrameStage.atLine {s t : State} {k : Nat} (h : FrameStage s k t) (hk : k < 228) : t.atLine :=
  ⟨h.running.trans (if_neg (Nat.ne_of_lt hk)), h.phase⟩

/-- A stage does not speak of the schedule. -/
theorem FrameStage.setSchedule {s t : State} {k : Nat} (h : FrameStage s k t) (l : List Input) :
    FrameStage s k { t with schedule := l } :=
  ⟨h.memOk, h.phase, h.line, h.running, h.stopRequested, h.read, h.enables, h.framesReady, h.accOf, h.events⟩

/-- A line step at line `k` appends the entries of that line. -/
theorem FrameStage.phaseEvents_eq {s t : State} {k : Nat} (h : FrameStage s k t) (hk : k < 228) :
    phaseEvents .s2 t ++ phaseEvents .s4 t ++ phaseEvents .s6 t = lineEvents s k := by
  have hlyc : t.line = t.lyc ↔ k = s.lyc.toNat := by
    rw [← BitVec.toNat_inj, h.line_toNat hk, State.lyc, h.read _ (by decide) (by decide) (by decide)]
  simp only [phaseEvents, lineEvents, hlyc, h.line_eq_iff hk 160 (by decide), h.line_toNat hk, h.enables 3 (by decide),
    h.enables 4 (by decide), h.enables 5 (by decide), h.framesReady]
  by_cases hk160 : k = 160
  · simp [hk160]
  · simp [hk160]

/-- One more line. -/
theorem FrameStage.next {s t : State} {k : Nat} (h : FrameStage s k t) (hk : k < 228) :
    FrameStage s (k + 1) (lineStep t) where
  memOk := lineStep_memOk (h.atLine hk) h.memOk
  phase := lineStep_phase (h.atLine hk)
  line := by
    rw [lineStep_line (h.atLine hk), h.line]
    by_cases hlast : k = 227
    · rw [hlast]
      rfl
    · rw [← h.line, if_neg fun he => hlast ((h.line_eq_iff hk 227 (by decide)).1 he), h.line,
        Nat.mod_eq_of_lt hk, Nat.mod_eq_of_lt (by omega), BitVec.ofNat_add]
  running := by
    rw [lineStep_running (h.atLine hk), h.stopRequested]
    simp only [h.line_eq_iff hk 227 (by decide), Nat.reduceEqDiff]
  stopRequested := by
    rw [lineStep_frame (h.atLine hk)]
    exact h.stopRequested
  read x h4 h6 h7 := (lineStep_read (h.atLine hk) h.memOk h4 h6 h7).trans (h.read x h4 h6 h7)
  enables b hb := by
    rw [lineStep_statusBit (h.atLine hk) h.memOk, if_neg (by omega), if_neg (by omega), if_neg (by omega),
      h.enables b hb]
  framesReady := by
    rw [lineStep_framesReady (h.atLine hk), h.framesReady]
    simp only [h.line_eq_iff hk 160 (by decide)]
    split_ifs <;> omega
  accOf hk' slot := by
    rw [lineStep_accOf (h.atLine hk) h.memOk (by rw [h.line_toNat hk]; omega)]
    simp only [h.line_eq_iff hk 160 (by decide)]
    split
    · exact loadAcc_eq_of_read h.read slot
    · exact h.accOf (by omega) slot
  events := by
    rw [lineStep_events (h.atLine hk) h.memOk, List.append_assoc, List.append_assoc,
      ← List.append_assoc (phaseEvents _ _), h.phaseEvents_eq hk, h.events, List.range_succ, List.flatMap_append, List.append_assoc]
    simp

/-- The stages of a frame. -/
theorem frame_stage {s : State} (hm : s.memOk) (h : s.atLine) (hl : s.line = 0#8) {k : Nat} (hk : k ≤ 228) :
    FrameStage s k (lineCommand^[k] s) := by
  induction k with
  | zero =>
    exact {
      memOk := hm, phase := h.2, line := hl, running := h.1, stopRequested := rfl, read := fun _ _ _ _ => rfl,
      enables := fun _ _ => rfl, framesReady := rfl, accOf := nofun, events := (List.append_nil _).symm }
  | succ k ih =>
    rw [Function.iterate_succ_apply']
    exact ((ih (by omega)).setSchedule _).next (by omega)

/-! ### Counting the entries of a frame -/

/-- Where each line appends an entry once or not at all, the entry counts the lines that append it. -/
theorem count_flatMap_range {f : Nat → List Event} {e : Event} {p : Nat → Prop} [DecidablePred p]
    (hf : ∀ l, (f l).count e = if p l then 1 else 0) (n : Nat) :
    ((List.range n).flatMap f).count e = Nat.count p n := by
  induction n with
  | zero => rfl
  | succ n ih => simp [List.range_succ, List.flatMap_append, List.count_append, ih, Nat.count_succ, hf]

/-- Where only line `l` appends a frame-ready entry, that is the one of the lines up to there. -/
theorem frameNumbers_flatMap_range {f : Nat → List Event} {l m : Nat}
    (hf : ∀ k, (f k).filterMap Event.frameNumber = if k = l then [m] else []) (n : Nat) :
    ((List.range n).flatMap f).filterMap Event.frameNumber = if l < n then [m] else [] := by
  induction n with
  | zero => rfl
  | succ n ih =>
    rw [List.range_succ, List.flatMap_append, List.filterMap_append, ih, List.flatMap_singleton, hf]
    obtain hlt | rfl | hgt := Nat.lt_trichotomy l n
    · rw [if_pos hlt, if_neg (Nat.ne_of_gt hlt), if_pos (by omega), List.append_nil]
    · rw [if_neg (Nat.lt_irrefl l), if_pos rfl, if_pos (by omega), List.nil_append]
    · rw [if_neg (by omega), if_neg (Nat.ne_of_lt hgt), if_neg (by omega), List.append_nil]

/-- The numbers below `n` that equal `l`. -/
theorem natCount_eq (l n : Nat) : Nat.count (· = l) n = if l < n then 1 else 0 := by
  rw [Nat.count_eq_card_filter_range, Finset.filter_eq']
  split_ifs <;> simp_all

/-- The numbers below `n` that are below `l`. -/
theorem natCount_lt {l n : Nat} (h : l ≤ n) : Nat.count (· < l) n = l := by
  obtain ⟨k, rfl⟩ := Nat.exists_eq_add_of_le h
  rw [Nat.count_add, Nat.count_of_forall fun _ => id, Nat.count_of_forall_not (by omega), Nat.add_zero]

/-- The numbers below `n` that meet a condition, where a further one holds or not for all of them. -/
theorem natCount_and (p : Nat → Prop) [DecidablePred p] (c : Prop) [Decidable c] (n : Nat) :
    Nat.count (fun l => p l ∧ c) n = if c then Nat.count p n else 0 := by
  split_ifs with h
  · simp [h]
  · exact Nat.count_of_forall_not fun _ _ hl => h hl.2

section
variable (s : State) (l : Nat)

/-- Each line signals HBLANK once. -/
theorem lineEvents_count_hblank : (lineEvents s l).count (.signal .hblank) = if True then 1 else 0 := by
  simp [lineEvents, apply_ite (List.count _)]

/-- Line 160 signals VBLANK. -/
theorem lineEvents_count_vblank : (lineEvents s l).count (.signal .vblank) = if l = 160 then 1 else 0 := by
  simp [lineEvents, apply_ite (List.count _)]

/-- Lines below 160 request LCD_HBLANK if HBLANK_IE = 1. -/
theorem lineEvents_count_lcdHblank : (lineEvents s l).count (.requestInterrupt .lcdHblank) =
    if l < 160 ∧ s.statusByte.getLsbD 4 = true then 1 else 0 := by
  simp [lineEvents, apply_ite (List.count _)]

/-- Line 160 requests LCD_VBLANK if VBLANK_IE = 1. -/
theorem lineEvents_count_lcdVblank : (lineEvents s l).count (.requestInterrupt .lcdVblank) =
    if l = 160 ∧ s.statusByte.getLsbD 3 = true then 1 else 0 := by
  simp [lineEvents, apply_ite (List.count _)]

/-- The line that equals LYC requests LCD_VCOUNTER_MATCH if VCOUNT_IE = 1. -/
theorem lineEvents_count_lcdVcounterMatch : (lineEvents s l).count (.requestInterrupt .lcdVcounterMatch) =
    if l = s.lyc.toNat ∧ s.statusByte.getLsbD 5 = true then 1 else 0 := by
  simp [lineEvents, apply_ite (List.count _)]

/-- Line 160 has the frame-ready entry. -/
theorem lineEvents_frameNumbers : (lineEvents s l).filterMap Event.frameNumber =
    if l = 160 then [s.framesReady + 1] else [] := by
  simp [lineEvents, apply_ite (List.filterMap _), List.filterMap_cons, Event.frameNumber]

end

/-- Settles O30: the run is 228 line steps (`run_lines`), which lead to the last stage of a frame (`frame_stage`); each
kind of entry is counted line by line. -/
theorem frameTrace : Obligations.FrameTrace := by
  intro s hm h hl hs
  have hend : FrameStage s 228 (lineCommand^[228] s) := frame_stage hm h hl (Nat.le_refl _)
  obtain ⟨h0, h1⟩ := loadAcc_eq s.mem
  refine ⟨_, (List.range 228).flatMap (lineEvents s), run_lines 228 hs, hend.events, hend.line, hend.phase,
    hend.running, hend.framesReady, (hend.accOf (by decide) 0#1).trans h0, (hend.accOf (by decide) 1#1).trans h1, ?_, ?_, ?_, ?_, ?_, ?_⟩
  · rw [count_flatMap_range (lineEvents_count_hblank s), Nat.count_true]
  · rw [count_flatMap_range (lineEvents_count_vblank s), natCount_eq]
    rfl
  · exact frameNumbers_flatMap_range (lineEvents_frameNumbers s) 228
  · rw [count_flatMap_range (lineEvents_count_lcdHblank s), natCount_and, natCount_lt (by decide)]
  · rw [count_flatMap_range (lineEvents_count_lcdVblank s), natCount_and, natCount_eq]
    rfl
  · rw [count_flatMap_range (lineEvents_count_lcdVcounterMatch s), natCount_and, natCount_eq, ← ite_and]
    simp only [Nat.lt_succ_iff]

end Sys2Proof.Machine
end

section
/-! ## Proof of the statement about rows that are not selected (log entries 12, 13, 18) -/

namespace Sys2Proof.Machine

/-- What the window that owns a pixel says of it, in the terms of the claims: the precedence of 44_compositor.md
R801. -/
theorem windowOwner_holds (m : Memory) (d : Half) (x l : Nat) (info : Info) :
    let owner := windowOwner m d x l info
    let in0 := d.getLsbD 13 = true ∧ rectHolds (reg16 m 0x040) (reg16 m 0x044) x l
    let in1 := d.getLsbD 14 = true ∧ rectHolds (reg16 m 0x042) (reg16 m 0x046) x l
    let inObj := d.getLsbD 15 = true ∧ info.mode = 2#2
    (owner = .none → d.toNat / 8192 = 0) ∧ (owner = .win0 → in0) ∧ (owner = .win1 → ¬ in0 ∧ in1) ∧
      (owner = .obj → ¬ in0 ∧ ¬ in1 ∧ inObj) ∧
      (owner = .out → d.toNat / 8192 ≠ 0 ∧ ¬ in0 ∧ ¬ in1 ∧ ¬ inObj) := by
  unfold windowOwner
  simp only [Bool.and_eq_true, inRect_iff, beq_iff_eq, field_top d 13 3 rfl, Nat.reducePow]
  split_ifs with hz h0 h1 hobj
  · exact ⟨fun _ => hz, nofun, nofun, nofun, nofun⟩
  · exact ⟨nofun, fun _ => h0, nofun, nofun, nofun⟩
  · exact ⟨nofun, nofun, fun _ => ⟨h0, h1⟩, nofun, nofun⟩
  · exact ⟨nofun, nofun, nofun, fun _ => ⟨h0, h1, hobj⟩, nofun⟩
  · exact ⟨nofun, nofun, nofun, nofun, fun _ => ⟨hz, h0, h1, hobj⟩⟩

/-- A window row that does not own the pixel changes nothing (log entry 13). -/
theorem windowOp_unowned {k : WindowKind} (ctl : Control) {x : Byte} {s : State} (h : ownerAt s x.toNat ≠ k) :
    windowOp k ctl x s = s := if_neg h

/-- The condition of EFF_FORCED_ALPHA in the terms of the claims (R808). -/
theorem forcedAt_iff (s : State) (x : Nat) :
    forcedAt s x = true ↔
      s.winFx = true ∧ (candidates s.mem s.winMask (columnOf s x)).first.id = .obj ∧
        ((columnOf s x).info.mode = 1#2 ∨ (columnOf s x).info.mode = 2#2) := by
  simp [forcedAt, forcedBlend, candidatesAt, snapshot]

/-- A row of the render does nothing from line 160 on (41_timing_engine.md R504). -/
theorem exec_renderRow_of_ge {s : State} (hb : 160 ≤ s.line.toNat) (d : Half) (n : BitVec 2) (slot : BitVec 1)
    (x : Byte) :
    ∀ i ∈ [Instr.mode0 d, .mode1 d, .mode2 d, .mode3 d, .mode4 d, .mode5 d, .fblankMode6 d, .mode7 d, .fblankBit d,
        .bgText4bpp n d, .bgText8bpp n d, .bgAffineClip slot d, .bgAffineWrap slot d, .objModeProhibited,
        .objShapeProhibited, .effNone d x, .effAlpha d x, .effBrighten d x, .effDarken d x, .effForcedAlpha x],
      exec i s = .next s := by
  have hidden (k : State → State) : (.next (onVisible k s) : Outcome) = .next s := by rw [onVisible_of_ge hb]
  have forced : exec (.effForcedAlpha x) s = .next s := by
    show (.next (if forcedAt s x.toNat then onVisible _ s else s) : Outcome) = .next s
    rw [onVisible_of_ge hb, ite_self]
  iterate 19 refine List.forall_mem_cons.2 ⟨hidden _, ?_⟩
  exact List.forall_mem_singleton.2 forced

/-- Settles O31: each row tests its line (`exec_renderRow_of_ge`), its pixel's owner (`windowOwner_holds`) or its
condition. -/
theorem unselectedRows : Obligations.UnselectedRows := by
  intro s d n slot x m c info in0 in1 inObj forced
  obtain ⟨hnone, hwin0, hwin1, hobj, hout⟩ := windowOwner_holds m c x.toNat s.line.toNat info
  have unowned {k : WindowKind} (ctl : Control) (h : windowOwner m c x.toNat s.line.toNat info ≠ k) :
      (.next (windowOp k ctl x s) : Outcome) = .next s := congrArg _ (windowOp_unowned ctl h)
  refine ⟨fun hl => congrArg _ (if_neg (by omega)), fun hl => ?_, fun hl => congrArg _ (if_neg (by omega)),
    fun hb => exec_renderRow_of_ge hb d n slot x, fun h => unowned _ fun ho => h (hnone ho),
    fun h => unowned _ fun ho => h (hwin0 ho), fun h => unowned _ fun ho => ?_, fun h => unowned _ fun ho => ?_,
    fun h => unowned _ fun ho => ?_, fun h => ?_⟩
  · exact congrArg _ (if_neg fun h => hl ((line_toNat_eq_iff _ _ (by decide)).1 h))
  · obtain ⟨hout0, hin1⟩ := hwin1 ho
    exact h.elim hout0 fun hout1 => hout1 hin1
  · obtain ⟨hout0, hout1, hinObj⟩ := hobj ho
    exact h.elim hout0 fun h => h.elim hout1 fun houtObj => houtObj hinObj
  · obtain ⟨hwindows, hout0, hout1, houtObj⟩ := hout ho
    exact h.elim hwindows fun h => h.elim hout0 fun h => h.elim hout1 houtObj
  · exact congrArg _ (if_neg fun hf => h ((forcedAt_iff s x.toNat).1 hf))

end Sys2Proof.Machine
end

section
/-! ## Proofs of the statements about the accumulators over lines (42_backgrounds.md R620, R621, R630) -/

namespace Sys2Proof.Machine

/-! ### The advance of an accumulator pair (R620) -/

/-- One advance of a coordinate that is given as an integer modulo 2^28. -/
theorem advanceBy_ofInt (z : Int) (v : Half) : advanceBy (BitVec.ofInt 28 z) v = BitVec.ofInt 28 (z + v.toInt) :=
  (BitVec.ofInt_add ..).symm

/-- One advance of a coordinate: the sum of the signed values, wrapping at 28 bits. -/
theorem advanceBy_eq (a : BitVec 28) (v : Half) : advanceBy a v = BitVec.ofInt 28 (a.toInt + v.toInt) := by
  rw [← advanceBy_ofInt, BitVec.ofInt_toInt]

section
variable (m : Memory) (slot : BitVec 1) (a : Acc)

/-- One advance of a pair. -/
theorem advanceAcc_eq :
    advanceAcc m slot a =
      { x := BitVec.ofInt 28 (a.x.toInt + (bgPb m slot).toInt),
        y := BitVec.ofInt 28 (a.y.toInt + (bgPd m slot).toInt) } := by
  rw [advanceAcc, advanceBy_eq, advanceBy_eq]

/-- `n` advances of a pair: `n` times the velocity, wrapping at 28 bits (R630). -/
theorem advanceAcc_iterate (n : Nat) :
    (advanceAcc m slot)^[n] a =
      { x := BitVec.ofInt 28 (a.x.toInt + n * (bgPb m slot).toInt),
        y := BitVec.ofInt 28 (a.y.toInt + n * (bgPd m slot).toInt) } := by
  induction n with
  | zero => simp
  | succ n ih =>
    have step (z v : Int) : z + (n + 1 : Nat) * v = z + n * v + v := by push_cast; ring
    rw [Function.iterate_succ_apply', ih, advanceAcc, advanceBy_ofInt, advanceBy_ofInt, step, step]

end

/-! ### The accumulators after a line step -/

/-- Memories that agree outside the status byte and VCOUNT agree on every register from BG0CNT on. -/
theorem reg16_eq_of_read {m n : Memory}
    (h : ∀ x, x ≠ 0x04000004 → x ≠ 0x04000006 → x ≠ 0x04000007 → n.read x = m.read x) {off : Nat} (hoff : 8 ≤ off) :
    reg16 n off = reg16 m off := by
  have hbyte {x : Nat} (hx : 0x04000008 ≤ x) : n.read x = m.read x := h x (by omega) (by omega) (by omega)
  have ha : 0x04000008 ≤ ioAddr off := by unfold ioAddr; omega
  rw [reg16, Memory.load16, hbyte ha, hbyte (by omega)]
  rfl

/-- The registers of a slot stand above the status word. -/
theorem le_slotOff (slot : BitVec 1) : 8 ≤ slotOff slot := by
  unfold slotOff; split <;> omega

/-- They advance a pair alike. -/
theorem advanceAcc_eq_of_read {m n : Memory}
    (h : ∀ x, x ≠ 0x04000004 → x ≠ 0x04000006 → x ≠ 0x04000007 → n.read x = m.read x) (slot : BitVec 1) (a : Acc) :
    advanceAcc n slot a = advanceAcc m slot a := by
  have hslot := le_slotOff slot
  rw [advanceAcc, bgPb, bgPd, reg16_eq_of_read h (by omega), reg16_eq_of_read h (by omega)]
  rfl

/-- Below line 160 a line step advances each pair, by the velocities of its own start. -/
theorem lineStep_accOf_of_lt {s : State} (h : s.atLine) (hm : s.memOk) (hv : s.line.toNat < 160) (slot : BitVec 1) :
    accOf (lineStep s) slot = advanceAcc s.mem slot (accOf s slot) := by
  have hentry : s.line ≠ 160#8 := fun hl => by simp [hl] at hv
  rw [← advanceAcc_eq_of_read (reached_stage hm .s3).read]
  simp [lineStep_eq h, reached, phasesFrom, accAfter, lineAfter, hv, hentry]

/-- Settles O28: below line 160 each pair is advanced (`lineStep_accOf_of_lt`), from there on the reload of line 160 is
all that happens to it (`lineStep_accOf`). -/
theorem lineMovesAccumulators : Obligations.LineMovesAccumulators := by
  intro s hm h
  refine ⟨lineStep s, rfl, fun hv => ?_, fun hl => ?_, fun hb => ?_⟩
  · have hacc (slot : BitVec 1) := (lineStep_accOf_of_lt h hm hv slot).trans (advanceAcc_eq ..)
    exact ⟨congrArg Acc.x (hacc 0#1), congrArg Acc.y (hacc 0#1), congrArg Acc.x (hacc 1#1), congrArg Acc.y (hacc 1#1)⟩
  · have hb : 160 ≤ s.line.toNat := by simp [hl]
    have hacc (slot : BitVec 1) := (lineStep_accOf h hm hb slot).trans (if_pos hl)
    obtain ⟨h0, h1⟩ := loadAcc_eq s.mem
    have hacc0 := (hacc 0#1).trans h0
    have hacc1 := (hacc 1#1).trans h1
    exact ⟨congrArg Acc.x hacc0, congrArg Acc.y hacc0, congrArg Acc.x hacc1, congrArg Acc.y hacc1⟩
  · have hentry : s.line ≠ 160#8 := fun hl => by simp [hl] at hb
    have hacc (slot : BitVec 1) := (lineStep_accOf h hm (Nat.le_of_lt hb) slot).trans (if_neg hentry)
    exact ⟨hacc 0#1, hacc 1#1⟩

/-! ### The accumulators after visible lines (R630) -/

/-- `t` is where `k` visible lines lead from `s`. -/
structure VisibleStage (s : State) (k : Nat) (t : State) : Prop where
  memOk : t.memOk
  atLine : t.atLine
  line : t.line.toNat = s.line.toNat + k
  read : ∀ x, x ≠ 0x04000004 → x ≠ 0x04000006 → x ≠ 0x04000007 → t.mem.read x = s.mem.read x
  accOf : ∀ slot, accOf t slot = (advanceAcc s.mem slot)^[k] (accOf s slot)

/-- A stage does not speak of the schedule. -/
theorem VisibleStage.setSchedule {s t : State} {k : Nat} (h : VisibleStage s k t) (l : List Input) :
    VisibleStage s k { t with schedule := l } :=
  ⟨h.memOk, h.atLine, h.line, h.read, h.accOf⟩

/-- One more line. -/
theorem VisibleStage.next {s t : State} {k : Nat} (h : VisibleStage s k t) (hk : s.line.toNat + k < 160) :
    VisibleStage s (k + 1) (lineStep t) := by
  have hv : t.line.toNat < 160 := h.line.trans_lt hk
  have hlast : t.line ≠ 227#8 := fun hl => by simp [hl] at hv
  refine ⟨lineStep_memOk h.atLine h.memOk, ⟨?_, lineStep_phase h.atLine⟩, ?_,
    fun x h4 h6 h7 => (lineStep_read h.atLine h.memOk h4 h6 h7).trans (h.read x h4 h6 h7), fun slot => ?_⟩
  · exact (lineStep_running h.atLine).trans (if_neg hlast)
  · rw [lineStep_line h.atLine, if_neg hlast, BitVec.toNat_add, h.line, BitVec.toNat_ofNat]
    omega
  · rw [lineStep_accOf_of_lt h.atLine h.memOk hv, advanceAcc_eq_of_read h.read, h.accOf, Function.iterate_succ_apply']

/-- The stages of lines below line 160. -/
theorem visible_stage {s : State} (hm : s.memOk) (h : s.atLine) {k : Nat} (hk : s.line.toNat + k ≤ 160) :
    VisibleStage s k (lineCommand^[k] s) := by
  induction k with
  | zero => exact ⟨hm, h, rfl, fun _ _ _ _ => rfl, fun _ => rfl⟩
  | succ k ih =>
    rw [Function.iterate_succ_apply']
    exact ((ih (by omega)).setSchedule _).next (by omega)

/-- Settles O29: the run is `n` line steps (`run_lines`), each an advance of both pairs (`visible_stage`), which add up
by `advanceAcc_iterate`. -/
theorem accumulatorInvariant : Obligations.AccumulatorInvariant := by
  intro n s hm h hn hs
  have hacc (slot : BitVec 1) := ((visible_stage hm h hn).accOf slot).trans (advanceAcc_iterate ..)
  exact ⟨_, run_lines n hs, congrArg Acc.x (hacc 0#1), congrArg Acc.y (hacc 0#1), congrArg Acc.x (hacc 1#1),
    congrArg Acc.y (hacc 1#1)⟩

end Sys2Proof.Machine
end

section
/-! ## Proofs of the statements about the row of a line: blank, undefined and composed rows (42_backgrounds.md R600, R608,
R609) -/

namespace Sys2Proof.Machine

/-- Forced blank, by its bit or by MODE = 6, selects the white row (R601, R608). -/
theorem effectiveRow_blank {d : Half} (h : d.getLsbD 7 = true ∨ d.toNat % 8 = 6) (s : State) :
    effectiveRow d s = whiteRow s := by
  unfold effectiveRow
  split
  · rfl
  next hbit =>
    have hmode : field d 0 3 = 6 := by rw [field_eq]; simpa using h.resolve_left hbit
    simp only [hmode]

/-- Settles O33: both rows and the line render are `whiteRow` on a visible line. -/
theorem forcedBlank : Obligations.ForcedBlank := by
  intro s d hv
  have hwhite : onVisible whiteRow s = { s with fb := s.fb.set s.line.toNat (List.replicate 240 0x7FFF#16) } :=
    onVisible_of_lt hv
  exact ⟨congrArg _ hwhite, congrArg _ hwhite, fun h => congrArg _ (effectiveRow_blank h s)⟩

/-- The row of draws of a visible line (R609, 43_sprites.md R714). -/
theorem undefinedRow_eq {s : State} (hv : s.line.toNat < 160) :
    undefinedRow s = { s with fb := s.fb.set s.line.toNat (drawRow s.draws), draws := s.draws + 240 } :=
  onVisible_of_lt hv

/-- Settles O34: each of the three rows is `undefinedRow`. -/
theorem undefinedRows : Obligations.UndefinedRows := by
  intro s i hv hi
  rcases hi with ⟨d, rfl⟩ | rfl | rfl
  all_goals exact congrArg _ (undefinedRow_eq hv)

/-! ### The row of a mode 0 to 5 (R600) -/

/-- On a visible line each of the modes 0 to 5 is a `modeRow` with its own layer kinds (R602 to R607). -/
theorem exec_mode {s : State} (hv : s.line.toNat < 160) (d : Half) :
    ∀ i ∈ [Instr.mode0 d, .mode1 d, .mode2 d, .mode3 d, .mode4 d, .mode5 d],
      ∃ ks, exec i s = .next (modeRow s.mem d s.line.toNat ks s) := by
  have shown (row : State → State) : (.next (onVisible row s) : Outcome) = .next (row s) := by rw [onVisible_of_lt hv]
  simp only [List.forall_mem_cons, List.not_mem_nil, false_imp_iff, implies_true, and_true]
  exact ⟨⟨kindsMode0 s.mem, shown (mode0Row d)⟩, ⟨kindsMode1 s.mem, shown (mode1Row d)⟩,
    ⟨kindsMode2 s.mem, shown (mode2Row d)⟩, ⟨kindsBitmap .bitmap3, shown (mode3Row d)⟩,
    ⟨kindsBitmap .bitmap4, shown (mode4Row d)⟩, ⟨kindsBitmap .bitmap5, shown (mode5Row d)⟩⟩

section
variable (m : Memory) (d : Half) (l : Nat) (ks : LayerKinds) (s : State)

/-- A mode keeps 1200 draws (log entry 5). -/
@[simp] theorem modeRow_draws : (modeRow m d l ks s).draws = s.draws + 1200 := by
  unfold modeRow
  dsimp only
  split <;> rfl

/-- The sprite buffers of a mode are those of the sprite pass. -/
theorem modeRow_sprites :
    (modeRow m d l ks s).lb4 = (spritePass m d l).cells.map Prod.fst ∧
      (modeRow m d l ks s).lb5 = (spritePass m d l).cells.map Prod.snd := by
  unfold modeRow
  dsimp only
  split <;> exact ⟨rfl, rfl⟩

/-- The columns that a mode leaves are those it has composed the row from. -/
theorem columnOf_modeRow :
    columnOf (modeRow m d l ks s) = columnOf (setSprites (spritePass m d l).cells (renderLayers m d l ks s)) := by
  unfold modeRow
  dsimp only
  split <;> rfl

/-- Without a prohibited record the row of a mode is composed, column by column (44_compositor.md R800). -/
theorem modeRow_fb_composed (h : (spritePass m d l).prohibited = false) :
    (modeRow m d l ks s).fb =
      s.fb.set l (columns fun x => composePixel m d l x (columnOf (modeRow m d l ks s) x)) := by
  rw [modeRow_fb, columnOf_modeRow, h, if_neg Bool.false_ne_true]

end

/-- Settles O36: each row is a `modeRow` (`exec_mode`), whose buffers, frame and row are read off. -/
theorem modeRows : Obligations.ModeRows := by
  intro s d i hv hi
  obtain ⟨ks, hexec⟩ := exec_mode hv d i hi
  obtain ⟨hlb4, hlb5⟩ := modeRow_sprites s.mem d s.line.toNat ks s
  refine ⟨_, hexec, ?_, hlb4, hlb5, modeRow_fb_composed _ _ _ _ _, fun h => ?_⟩
  · have hframe := modeRow_frame s.mem d s.line.toNat ks s
    unfold RowOnly at hframe
    rwa [modeRow_draws] at hframe
  · rw [modeRow_fb, if_pos h]
    rfl

end Sys2Proof.Machine
end

section
/-! ## Proofs of the statements about the background layers (42_backgrounds.md R611 to R629) -/

namespace Sys2Proof.Machine

/-! ### Register fields and renderer reads, in the terms of the claims -/

section
variable (cnt : Half)

/-- The tile-data base of a layer by division. -/
theorem charBase_eq : charBase cnt = cnt.toNat / 4 % 4 * 0x4000 := by simp [charBase, field_eq]

/-- The map base of a layer by division. -/
theorem screenBase_eq : screenBase cnt = cnt.toNat / 256 % 32 * 0x800 := by simp [screenBase, field_eq]

/-- The extent of an affine layer as a product (R615). -/
theorem affineExtent_eq : affineExtent cnt = 128 * 2 ^ (cnt.toNat / 16384) := by
  simp only [affineExtent, field_top cnt 14 2 rfl, Nat.shiftLeft_eq, Nat.reducePow]

/-- The extent of an affine layer is at most 1024 (R615). -/
theorem affineExtent_le : affineExtent cnt ≤ 1024 := by
  have hsize : cnt.toNat / 16384 ≤ 3 := by have := cnt.isLt; omega
  have := Nat.pow_le_pow_right Nat.two_pos hsize
  rw [affineExtent_eq]
  omega

end

section
variable (m : Memory)

/-- The width of a mosaic cell. -/
theorem mosaicW_eq : mosaicW m = (reg16 m 0x04C).toNat % 16 + 1 := by simp [mosaicW, field_eq]

/-- The height of a mosaic cell. -/
theorem mosaicV_eq : mosaicV m = (reg16 m 0x04C).toNat / 16 % 16 + 1 := by simp [mosaicV, field_eq]

/-- A byte read inside VRAM (20_memory.md R209). -/
theorem vram8_inside {off : Nat} (k : Nat) (h : off < 0x18000) : vram8 m off k = m.read (0x06000000 + off) := if_pos h

/-- A halfword read inside VRAM (R209). -/
theorem vram16_inside {off : Nat} (k : Nat) (h : off + 2 ≤ 0x18000) :
    vram16 m off k = m.load16 (0x06000000 + off) := if_pos h

/-- A byte read as a number: past the end of VRAM it is the low byte of a draw (R209). -/
theorem vram8_toNat (off k : Nat) : (vram8 m off k).toNat =
    if off < 0x18000 then (m.read (0x06000000 + off)).toNat else (Config.freeValue k).toNat % 256 := by
  by_cases h : off < 0x18000
  · rw [vram8_inside m k h, if_pos h]
  · rw [vram8, if_neg (show ¬ off + 1 ≤ 0x18000 from h), if_neg h]
    simp [draw8]

/-- A snapped coordinate is no greater. -/
theorem snap_le (v c : Nat) : snap v c ≤ v := Nat.sub_le ..

/-! ### Tiled layers: the position and the map entry (R611, R612) -/

/-- The map position by division: scrolled modulo the extent, then snapped. -/
theorem textPosition_eq (n : Nat) (cnt : Half) (x l : Nat) :
    let mw := (reg16 m 0x04C).toNat % 16 + 1
    let mv := (reg16 m 0x04C).toNat / 16 % 16 + 1
    let qx := (x + (reg16 m (0x010 + 4 * n)).toNat % 512) % if cnt.getLsbD 14 then 512 else 256
    let qy := (l + (reg16 m (0x012 + 4 * n)).toNat % 512) % if cnt.getLsbD 15 then 512 else 256
    textPosition m n cnt x l =
      (if cnt.getLsbD 6 then qx - qx % mw else qx, if cnt.getLsbD 6 then qy - qy % mv else qy) := by
  have hscroll (v : Half) : field v 0 9 = v.toNat % 512 := by simp [field_eq]
  simp only [textPosition, textExtent_eq, bgHofs, bgVofs, hscroll, snap, mosaicW_eq, mosaicV_eq]
  split_ifs <;> rfl

/-- The map position is inside the extent. -/
theorem textPosition_lt (n : Nat) (cnt : Half) (x l : Nat) :
    (textPosition m n cnt x l).1 < (textExtent cnt).1 ∧ (textPosition m n cnt x l).2 < (textExtent cnt).2 := by
  have hw : 0 < (textExtent cnt).1 := by rw [textExtent_eq]; dsimp only; split_ifs <;> omega
  have hh : 0 < (textExtent cnt).2 := by rw [textExtent_eq]; dsimp only; split_ifs <;> omega
  unfold textPosition
  dsimp only
  split
  · exact ⟨(snap_le ..).trans_lt (Nat.mod_lt _ hw), (snap_le ..).trans_lt (Nat.mod_lt _ hh)⟩
  · exact ⟨Nat.mod_lt _ hw, Nat.mod_lt _ hh⟩

/-- The offset of a map entry is even, and the entry ends inside VRAM. -/
theorem textEntryOffset_bounds {cnt : Half} {px py : Nat} (hx : px < (textExtent cnt).1) (hy : py < (textExtent cnt).2) :
    textEntryOffset cnt px py % 2 = 0 ∧ textEntryOffset cnt px py ≤ 0x117FE := by
  rw [textExtent_eq] at hx hy
  simp only [textEntryOffset, textExtent_eq, screenBase_eq]
  dsimp only at hx hy
  split_ifs at hx hy ⊢ <;> omega

/-- A map entry by division (30_encoding.md R305). -/
theorem textEntry_eq (e : Half) (px py : Nat) : textEntry e px py =
    { tile := e.toNat % 1024, bank := e.toNat / 4096,
      tx := if e.getLsbD 10 then 7 - px % 8 else px % 8, ty := if e.getLsbD 11 then 7 - py % 8 else py % 8 } := by
  rw [textEntry, field_top e 12 4 rfl, field_eq]
  simp

/-- Settles O40: the position by `textPosition_eq`, the entry's offset inside VRAM by `textEntryOffset_bounds`, its fields
by `textEntry_eq`. -/
theorem textCoordinates : Obligations.TextCoordinates := by
  intro m n cnt x l k _ w h mw mv qx qy px py eoff e
  have hpos : textPosition m n cnt x l = (px, py) := textPosition_eq m n cnt x l
  have hoff : textEntryOffset cnt px py = eoff := by rw [textEntryOffset, textExtent_eq, screenBase_eq]
  obtain ⟨hx, hy⟩ := textPosition_lt m n cnt x l
  rw [hpos] at hx hy
  obtain ⟨heven, hle⟩ := textEntryOffset_bounds hx hy
  rw [hoff] at heven hle
  have hin : eoff + 2 ≤ 0x18000 := (Nat.add_le_add_right hle 2).trans (by decide)
  refine ⟨heven, hle, ?_⟩
  rw [textCoord, hpos, hoff, vram16_inside m k hin, textEntry_eq]

/-! ### Tiled layers: the pixels (R613, R614) -/

/-- The ranges of what a map entry gives. -/
theorem textCoord_lt (n : Nat) (cnt : Half) (x l k : Nat) :
    let t := textCoord m n cnt x l k
    t.tile < 1024 ∧ t.tx < 8 ∧ t.ty < 8 := by
  rw [textCoord, textEntry_eq]
  refine ⟨Nat.mod_lt _ (by decide), ?_, ?_⟩
  all_goals dsimp only; split <;> omega

/-- A 4-bit pixel: its byte is always inside VRAM. -/
theorem textPixel4_eq (n : Nat) (cnt : Half) (l base x : Nat) :
    let t := textCoord m n cnt x l (base + x)
    let b := (m.read (0x06000000 + (cnt.toNat / 4 % 4 * 0x4000 + t.tile * 32 + t.ty * 4 + t.tx / 2))).toNat
    let idx := if t.tx % 2 = 0 then b % 16 else b / 16
    textPixel4 m n cnt l base x = indexColour m idx (t.bank * 16 + idx) := by
  obtain ⟨htile, htx, hty⟩ := textCoord_lt m n cnt x l (base + x)
  unfold textPixel4
  dsimp only
  rw [charBase_eq, vram8_inside m _ (by omega), nibble_eq]

/-- An 8-bit pixel: its byte is a draw past the end of VRAM. -/
theorem textPixel8_eq (n : Nat) (cnt : Half) (l base x : Nat) :
    let t := textCoord m n cnt x l (base + x)
    let o := cnt.toNat / 4 % 4 * 0x4000 + t.tile * 64 + t.ty * 8 + t.tx
    let idx := if o < 0x18000 then (m.read (0x06000000 + o)).toNat else (Config.freeValue (base + x)).toNat % 256
    textPixel8 m n cnt l base x = indexColour m idx idx := by
  unfold textPixel8
  dsimp only
  rw [charBase_eq, vram8_toNat]

end

/-- A layer on its own fills its line buffer and keeps 240 draws (log entries 5 and 12). -/
theorem layerOp_eq {s : State} (hv : s.line.toNat < 160) (n : BitVec 2) (f : Nat → Half) :
    layerOp n f s = setLb n (columns f) { s with draws := s.draws + 240 } := by
  rw [layerOp, onVisible_of_lt hv]
  obtain rfl | rfl | rfl | rfl := layer_cases n
  all_goals rfl

/-- Settles O41: each row is a `layerOp`, column by column the pixel of `textPixel4_eq` or `textPixel8_eq`. -/
theorem textLayers : Obligations.TextLayers := by
  intro s n cnt hv m c base colour idx4 idx8
  have h4 : textPixel4 m n.toNat cnt s.line.toNat s.draws = fun x => colour (idx4 x) ((c x).bank * 16 + idx4 x) :=
    funext fun x => textPixel4_eq m n.toNat cnt s.line.toNat s.draws x
  have h8 : textPixel8 m n.toNat cnt s.line.toNat s.draws = fun x => colour (idx8 x) (idx8 x) :=
    funext fun x => textPixel8_eq m n.toNat cnt s.line.toNat s.draws x
  exact ⟨congrArg _ ((layerOp_eq hv n _).trans (by rw [snapshot, h4]; rfl)),
    congrArg _ ((layerOp_eq hv n _).trans (by rw [snapshot, h8]; rfl))⟩

end Sys2Proof.Machine
end

section
/-! ## Proofs of the statements about the affine and bitmap layers (42_backgrounds.md R615 to R629) -/

namespace Sys2Proof.Machine

/-! ### The position of a column (R615 to R618, R622) -/

/-- A point that moves by (p, q) at each step, after `x` steps. -/
theorem iterate_move (p q : Int) (z : Int × Int) (x : Nat) :
    (fun c : Int × Int => (c.1 + p, c.2 + q))^[x] z = (z.1 + x * p, z.2 + x * q) := by
  induction x with
  | zero => simp
  | succ x ih =>
    rw [Function.iterate_succ_apply', ih]
    push_cast
    ext <;> ring

/-- Settles O43: the running position is `iterate_move`, and Round8 is floor division. -/
theorem affineRunningPosition : Obligations.AffineRunningPosition := by
  intro m slot acc x c
  have hc : c = (acc.x.toInt + x * bgPa m slot, acc.y.toInt + x * bgPc m slot) := iterate_move ..
  rw [affinePosition, round8_eq, round8_eq, hc]

section
variable (m : Memory)

/-- The whole-pixel position of a column, by the registers of its slot (R623). -/
theorem affinePosition_eq (slot : BitVec 1) (acc : Acc) (x : Nat) :
    let off := 0x020 + 0x10 * slot.toNat
    affinePosition m slot acc x =
      ((acc.x.toInt + x * (reg16 m off).toInt + 128) / 256,
        (acc.y.toInt + x * (reg16 m (off + 4)).toInt + 128) / 256) := by
  have hoff : slotOff slot = 0x020 + 0x10 * slot.toNat := by
    obtain rfl | rfl := Laws.RoundTrip.frame_cases slot <;> rfl
  rw [affinePosition, round8_eq, round8_eq, bgPa, bgPc, hoff]

/-- A pixel rule that is `pixel` in an area is so after the mosaic snap too, which does not leave the area. -/
theorem apply_mosaicSnap {f : Nat × Nat → Half} {pixel : Nat → Nat → Half} {w h : Nat} (cnt : Half)
    (hf : ∀ i j, i < w → j < h → f (i, j) = pixel i j) {i j : Nat} (hi : i < w) (hj : j < h) :
    let mw := (reg16 m 0x04C).toNat % 16 + 1
    let mv := (reg16 m 0x04C).toNat / 16 % 16 + 1
    f (mosaicSnap m cnt (i, j)) = if cnt.getLsbD 6 then pixel (i - i % mw) (j - j % mv) else pixel i j := by
  rw [← mosaicW_eq, ← mosaicV_eq, mosaicSnap]
  split
  · exact hf _ _ ((snap_le ..).trans_lt hi) ((snap_le ..).trans_lt hj)
  · exact hf _ _ hi hj

/-- A wrapped coordinate is inside the map (R618). -/
theorem toNat_emod_lt (v : Int) {n : Nat} (hn : 0 < n) : (v % n).toNat < n := by
  have hpos : (0 : Int) < n := Int.natCast_pos.2 hn
  exact (Int.toNat_lt (Int.emod_nonneg v hpos.ne')).2 (Int.emod_lt_of_pos v hpos)

/-! ### Affine layers (R617, R618, R619) -/

/-- The pixel of a map position: its two bytes are inside VRAM. -/
theorem affineTexel_eq {cnt : Half} (k : Nat) {x y : Nat} (hx : x < affineExtent cnt) (hy : y < affineExtent cnt) :
    let t := (m.read (0x06000000 + (cnt.toNat / 256 % 32 * 0x800 + y / 8 * (affineExtent cnt / 8) + x / 8))).toNat
    let idx := (m.read (0x06000000 + (cnt.toNat / 4 % 4 * 0x4000 + t * 64 + y % 8 * 8 + x % 8))).toNat
    affineTexel m cnt k (x, y) = indexColour m idx idx := by
  have hsize := affineExtent_le cnt
  have hrow : y / 8 * (affineExtent cnt / 8) ≤ 127 * 128 := Nat.mul_le_mul (by omega) (by omega)
  unfold affineTexel
  dsimp only
  rw [screenBase_eq, charBase_eq, vram8_inside m k (by omega), vram8_inside m k (by omega)]

/-- A layer that clips: the pixel of a position inside the map, TRANSPARENT outside. -/
theorem affinePixelClip_eq (slot : BitVec 1) (acc : Acc) (cnt : Half) (base x : Nat) :
    let p := affinePosition m slot acc x
    affinePixelClip m slot acc cnt base x =
      if 0 ≤ p.1 ∧ p.1 < affineExtent cnt ∧ 0 ≤ p.2 ∧ p.2 < affineExtent cnt then
        affineTexel m cnt (base + x) (mosaicSnap m cnt (p.1.toNat, p.2.toNat))
      else transparent := by
  unfold affinePixelClip clipPosition
  dsimp only
  split_ifs <;> rfl

end

/-- Settles O42: each row is a `layerOp`; the position of a column is `affinePosition_eq`, the pixel after the snap that of
`affineTexel_eq`. -/
theorem affineLayers : Obligations.AffineLayers := by
  intro s slot cnt hv m off acc size ix iy mw mv texel sample row
  have hsize : affineExtent cnt = size := affineExtent_eq cnt
  have hpos (x : Nat) : affinePosition m slot acc x = (ix x, iy x) := affinePosition_eq m slot acc x
  have htexel (k x y : Nat) (hx : x < size) (hy : y < size) : affineTexel m cnt k (x, y) = texel x y := by
    rw [← hsize] at hx hy
    rw [affineTexel_eq m k hx hy, hsize]
    rfl
  have hsample (k : Nat) {x y : Nat} (hx : x < size) (hy : y < size) :
      affineTexel m cnt k (mosaicSnap m cnt (x, y)) = sample x y := apply_mosaicSnap m cnt (htexel k) hx hy
  have hclip (x : Nat) : affinePixelClip m slot acc cnt s.draws x =
      if 0 ≤ ix x ∧ ix x < size ∧ 0 ≤ iy x ∧ iy x < size then sample (ix x).toNat (iy x).toNat else 0x8000#16 := by
    rw [affinePixelClip_eq, hpos, hsize]
    split
    next h =>
      obtain ⟨hx0, hx, hy0, hy⟩ := h
      exact hsample _ ((Int.toNat_lt hx0).2 hx) ((Int.toNat_lt hy0).2 hy)
    next => rfl
  have hwrap (x : Nat) : affinePixelWrap m slot acc cnt s.draws x = sample (ix x % size).toNat (iy x % size).toNat := by
    have hpositive : 0 < size := by positivity
    rw [affinePixelWrap, hpos, hsize]
    exact hsample _ (toNat_emod_lt _ hpositive) (toNat_emod_lt _ hpositive)
  exact ⟨congrArg _ ((layerOp_eq hv row _).trans (congrArg (setLb row · _) (congrArg columns (funext hclip)))),
    congrArg _ ((layerOp_eq hv row _).trans (congrArg (setLb row · _) (congrArg columns (funext hwrap))))⟩

/-! ### Bitmap layers (R624 to R629) -/

section
variable (m : Memory)

/-- A pixel of the mode 3 bitmap is inside VRAM (R625). -/
theorem bitmapPixel3_eq (k : Nat) {i j : Nat} (hi : i < 240) (hj : j < 160) :
    bitmapPixel3 m k i j = m.load16 (0x06000000 + (i + j * 240) * 2) &&& 0x7FFF#16 := by
  rw [bitmapPixel3, vram16_inside m k (by omega)]

/-- A pixel of the mode 4 bitmap: a byte past the end of VRAM is a draw (R626, R628). -/
theorem bitmapPixel4_eq (w f k i j : Nat) :
    let o := f * 0xA000 + i + j * w
    let idx := if o < 0x18000 then (m.read (0x06000000 + o)).toNat else (Config.freeValue k).toNat % 256
    bitmapPixel4 m w f k i j = indexColour m idx idx := by
  rw [bitmapPixel4, vram8_toNat]

/-- A pixel of the mode 5 bitmap is inside VRAM in both frames (R627, R628). -/
theorem bitmapPixel5_eq {f : Nat} (k : Nat) {i j : Nat} (hf : f < 2) (hi : i < 160) (hj : j < 128) :
    bitmapPixel5 m f k i j = m.load16 (0x06000000 + (f * 0xA000 + (i + j * 160) * 2)) &&& 0x7FFF#16 := by
  rw [bitmapPixel5, vram16_inside m k (by omega)]

/-- The bitmap layer: the pixel of a position inside the bitmap, TRANSPARENT outside (R624). -/
theorem bitmapLayerPixel_eq (g : Nat × Nat) (kind : BitmapKind) (f : Nat) (acc : Acc) (cnt : Half) (base x : Nat) :
    let p := affinePosition m 0#1 acc x
    bitmapLayerPixel m g kind f acc cnt base x =
      if 0 ≤ p.1 ∧ p.1 < (bitmapSize g kind).1 ∧ 0 ≤ p.2 ∧ p.2 < (bitmapSize g kind).2 then
        bitmapPixel m g kind f (base + x) (mosaicSnap m cnt (p.1.toNat, p.2.toNat))
      else transparent := by
  unfold bitmapLayerPixel clipPosition
  dsimp only
  split_ifs <;> rfl

end

/-- Settles O44: inside the bitmap the pixel is that of `bitmapPixel3_eq`, `bitmapPixel5_eq` or `bitmapPixel4_eq`. -/
theorem bitmapPixels : Obligations.BitmapPixels := by
  intro s f ix iy left g o idx
  have leaves {c c' : Half} (h : c = c') : (.next (left c) : Outcome) = .next (left c') := h ▸ rfl
  refine ⟨leaves ?_, leaves ?_, leaves ?_⟩
  · exact ite_congr rfl (fun h => bitmapPixel3_eq s.mem _ h.1 h.2) fun _ => rfl
  · exact ite_congr rfl (fun h => bitmapPixel5_eq s.mem _ f.isLt h.1 h.2) fun _ => rfl
  · have hpixel : bitmapPixel s.mem g .bitmap4 f.toNat s.draws (ix.toNat, iy.toNat) = indexColour s.mem idx idx :=
      bitmapPixel4_eq ..
    by_cases hin : ix.toNat < g.1 ∧ iy.toNat < g.2
    · refine ((if_pos hin).trans hpixel).trans ?_
      by_cases hidx : idx = 0
      · exact (if_pos hidx).trans (if_neg fun h => h.2.2 hidx).symm
      · exact (if_neg hidx).trans (if_pos ⟨hin.1, hin.2, hidx⟩).symm
    · exact (if_neg hin).trans (if_neg fun h => hin ⟨h.1, h.2.1⟩).symm

/-- Settles O45: the layer is the one of `modeLayers`, column by column by `bitmapLayerPixel_eq` and the pixel rule of the
mode. -/
theorem bitmapLayers : Obligations.BitmapLayers := by
  intro s d hv m g f ix iy mw mv mosaic shown pixel3 pixel4 pixel5
  have hframe : (d.getLsbD 4).toNat = f := by rw [← field_bit, field_eq]; rfl
  have hf : f < 2 := Nat.mod_lt _ Nat.two_pos
  have hpos (x : Nat) : affinePosition m 0#1 s.acc0 x = (ix x, iy x) := affinePosition_eq m 0#1 s.acc0 x
  have hlayer (kind : BitmapKind) (pixel : Nat → Nat → Nat → Half)
      (hpixel : ∀ x i j, i < (bitmapSize g kind).1 → j < (bitmapSize g kind).2 →
        bitmapPixel m g kind f (s.draws + 480 + x) (i, j) = pixel x i j) :
      columns (bitmapLayerPixel m g kind (d.getLsbD 4).toNat s.acc0 (bgCnt m 2) (s.draws + 480)) =
        shown (bitmapSize g kind).1 (bitmapSize g kind).2 pixel := by
    refine congrArg columns (funext fun x => ?_)
    rw [bitmapLayerPixel_eq, hpos, hframe]
    refine ite_congr rfl (fun h => ?_) fun _ => rfl
    obtain ⟨hx0, hx, hy0, hy⟩ := h
    exact apply_mosaicSnap m _ (hpixel x) ((Int.toNat_lt hx0).2 hx) ((Int.toNat_lt hy0).2 hy)
  obtain ⟨-, -, -, h3, h4, h5⟩ := modeLayers s d hv
  obtain ⟨t3, ht3, -, -, hlb3, -⟩ := h3
  obtain ⟨t4, ht4, -, -, hlb4, -⟩ := h4
  obtain ⟨t5, ht5, -, -, hlb5, -⟩ := h5
  exact ⟨⟨t3, ht3, hlb3.trans (hlayer .bitmap3 pixel3 fun x i j hi hj => bitmapPixel3_eq m _ hi hj)⟩,
    ⟨t4, ht4, hlb4.trans (hlayer .bitmap4 pixel4 fun x i j _ _ => bitmapPixel4_eq m g.1 f _ i j)⟩,
    ⟨t5, ht5, hlb5.trans (hlayer .bitmap5 pixel5 fun x i j hi hj => bitmapPixel5_eq m _ hf hi hj)⟩⟩

end Sys2Proof.Machine
end

section
/-! ## Proofs of the statements about rows without sprites, windows and effects (44_compositor.md R806, R807, R809) -/

namespace Sys2Proof.Machine

/-! ### The pixel of a column that shows layer 2 or the backdrop -/

/-- A transparent pixel is not offered (R806). -/
theorem offerLayer_transparent {c : Half} (h : c = transparent) (mask : BitVec 5) (p : BitVec 2) (id : LayerId)
    (cs : Candidates) : offerLayer mask { c := c, p := p, id := id } cs = cs := by
  simp [offerLayer, h]

/-- An opaque colour is not TRANSPARENT. -/
theorem ne_transparent_of_opaque {c : Half} (h : opaqueColour c) : c ≠ transparent := by
  rintro rfl
  simp [opaqueColour, transparent] at h

/-- With the other layers transparent and all layers enabled, the frontmost candidate is layer 2 where it has a pixel, else
the backdrop. -/
theorem candidates_first_of_bg2 (m : Memory) {q : LineColumn} (h0 : q.c0 = transparent) (h1 : q.c1 = transparent)
    (h3 : q.c3 = transparent) (h4 : q.c4 = transparent) :
    (candidates m 0b11111#5 q).first =
      if q.c2 = transparent then backdrop m else { c := q.c2, p := cntPrio (bgCnt m 2), id := .bg2 } := by
  have hprio : (cntPrio (bgCnt m 2)).toNat ≤ 3 := Nat.le_of_lt_succ (cntPrio (bgCnt m 2)).isLt
  simp only [candidates, offerLayer_transparent h0, offerLayer_transparent h1, offerLayer_transparent h3,
    offerLayer_transparent h4]
  split
  next h2 => rw [offerLayer_transparent h2]
  next h2 => simp [offerLayer, offer, layerIndex, backdrop, h2, hprio]

/-- BLDCNT[7:6] = 0 selects no effect (R809). -/
theorem effect_eq_zero {bld : Half} (h : bld &&& 0x00C0#16 = 0#16) : field bld 6 2 = 0 := by
  have hzero : ∀ e : BitVec 2, e.setWidth 16 <<< 6 = 0#16 → e.toNat = 0 := by decide
  exact hzero _ ((effect_mask_eq bld).symm.trans h)

/-- Without windows and effects a pixel is the colour of its frontmost candidate, unless that is a sprite (R805, R809). -/
theorem composePixel_plain {m : Memory} {d : Half} (l x : Nat) {q : LineColumn} (hwindows : d.toNat / 8192 = 0)
    (heffect : reg16 m 0x050 &&& 0x00C0#16 = 0#16) (hobj : (candidates m 0b11111#5 q).first.id ≠ .obj) :
    composePixel m d l x q = (candidates m 0b11111#5 q).first.c := by
  have hcontrol : windowControl m d x l q.info = controlNone := by
    rw [windowControl, windowOwner, field_top d 13 3 rfl, if_pos (show d.toNat / 2 ^ 13 = 0 from hwindows)]
    rfl
  have hforced : forcedBlend q.info (candidates m 0b11111#5 q) = false := by simp [forcedBlend, hobj]
  simp only [composePixel, hcontrol, controlNone, applyEffect, effectOr, effect_eq_zero heffect, hforced]
  rfl

/-! ### The row of a mode in which only layer 2 shows -/

/-- With OBJ_EN = 0 the sprite buffers keep their initial entries (43_sprites.md R700). -/
theorem spritePass_disabled (m : Memory) {d : Half} (h : d.getLsbD 12 = false) (l : Nat) :
    spritePass m d l = { cells := List.replicate 240 spriteInit, prohibited := false } := by
  rw [spritePass, h]
  rfl

/-- A layer that is not shown is transparent (42_backgrounds.md R610). -/
theorem renderLayer_hidden {d : Half} {n : Nat} {k : LayerKind} (h : layerShown d n k = false) (m : Memory) (a0 a1 : Acc)
    (g : Nat × Nat) (l base : Nat) : renderLayer m a0 a1 g d n k l base = List.replicate 240 transparent := by
  rw [renderLayer_eq, h]
  rfl

/-- Every column of a transparent row is transparent. -/
theorem getD_transparent (n x : Nat) : (List.replicate n transparent).getD x transparent = transparent := by
  rw [List.getD_eq_getElem?_getD, List.getElem?_getD_replicate_default_eq]

/-- A row of one colour. -/
theorem columns_const (c : Half) : (columns fun _ => c) = List.replicate 240 c := by simp [columns]

/-- The row of a mode without sprites, windows and effects, in which layers 0, 1 and 3 are not shown: in each column the
pixel of layer 2, or the backdrop where that is transparent. -/
theorem modeRow_fb_of_bg2 {m : Memory} {d : Half} {ks : LayerKinds} (l : Nat) (s : State) (hd : d.toNat / 4096 = 0)
    (heffect : reg16 m 0x050 &&& 0x00C0#16 = 0#16) (h0 : layerShown d 0 ks.k0 = false)
    (h1 : layerShown d 1 ks.k1 = false) (h3 : layerShown d 3 ks.k3 = false) :
    (modeRow m d l ks s).fb = s.fb.set l (columns fun x =>
      let c := (modeRow m d l ks s).lb2.getD x transparent
      if c = transparent then palColour m 0 else c) := by
  have hobj : d.getLsbD 12 = false := by
    rw [getLsbD_eq_div, show d.toNat / 2 ^ 12 = 0 from hd]
    rfl
  have hpass := spritePass_disabled m hobj l
  obtain ⟨hlb0, hlb1, -, hlb3⟩ := modeRow_layers m d l ks s
  obtain ⟨hlb4, -⟩ := modeRow_sprites m d l ks s
  rw [hpass, List.map_replicate] at hlb4
  rw [modeRow_fb_composed m d l ks s (by rw [hpass])]
  refine congrArg (s.fb.set l) (congrArg columns (funext fun x => ?_))
  have clear {row : List Half} (h : row = List.replicate 240 transparent) : row.getD x transparent = transparent := by
    rw [h, getD_transparent]
  have hfirst := candidates_first_of_bg2 m (q := columnOf (modeRow m d l ks s) x)
    (clear (hlb0.trans (renderLayer_hidden h0 ..))) (clear (hlb1.trans (renderLayer_hidden h1 ..)))
    (clear (hlb3.trans (renderLayer_hidden h3 ..))) (clear hlb4)
  rw [composePixel_plain l x (by omega) heffect (by rw [hfirst]; split <;> nofun), hfirst, apply_ite Candidate.c]
  rfl

/-- Where layer 2 is not shown either, that row is the backdrop (R807). -/
theorem modeRow_fb_of_hidden {m : Memory} {d : Half} {ks : LayerKinds} (l : Nat) (s : State) (hd : d.toNat / 4096 = 0)
    (heffect : reg16 m 0x050 &&& 0x00C0#16 = 0#16) (h0 : layerShown d 0 ks.k0 = false)
    (h1 : layerShown d 1 ks.k1 = false) (h2 : layerShown d 2 ks.k2 = false) (h3 : layerShown d 3 ks.k3 = false) :
    (modeRow m d l ks s).fb = s.fb.set l (List.replicate 240 (palColour m 0)) := by
  obtain ⟨-, -, hlb2, -⟩ := modeRow_layers m d l ks s
  rw [modeRow_fb_of_bg2 l s hd heffect h0 h1 h3, hlb2.trans (renderLayer_hidden h2 ..)]
  simp only [getD_transparent, if_true, columns_const]

/-! ### Nothing enabled (42_backgrounds.md R602) -/

/-- A word without the bits of the mask 0xFF80 has no bit from 7 on. -/
theorem getLsbD_of_masked {d : Half} (h : d &&& 0xFF80#16 = 0#16) {i : Nat} (hi : 7 ≤ i) : d.getLsbD i = false := by
  by_cases h16 : i < 16
  · have hbit := congrArg (·.getLsbD i) h
    interval_cases i <;> simpa using hbit
  · exact BitVec.getLsbD_of_ge d i (by omega)

/-- A layer that is no bitmap is not shown without its enable bit (R610). -/
theorem layerShown_disabled {d : Half} {n : Nat} {k : LayerKind} (hk : ∀ b, k ≠ .bitmap b)
    (h : d.getLsbD (8 + n) = false) : layerShown d n k = false := by
  cases k
  case off => rfl
  case bitmap b => exact absurd rfl (hk b)
  all_goals exact h

/-- A text layer is no bitmap. -/
theorem textKind_ne_bitmap (cnt : Half) (b : BitmapKind) : textKind cnt ≠ .bitmap b := by
  unfold textKind
  split <;> nofun

/-- An affine layer is no bitmap. -/
theorem affineKind_ne_bitmap (cnt : Half) (b : BitmapKind) : affineKind cnt ≠ .bitmap b := by
  unfold affineKind
  split <;> nofun

/-- Settles O39: the row of each mode is one of `modeRow_fb_of_hidden`. -/
theorem nothingEnabledShowsBackdrop : Obligations.NothingEnabledShowsBackdrop := by
  intro s hv hmask hmode heffect
  rw [renderLine, advanceAccumulators_fb, snapshot]
  generalize reg16 s.mem 0x000 = d at hmask hmode
  have hbit {i : Nat} (hi : 7 ≤ i) : d.getLsbD i = false := getLsbD_of_masked hmask hi
  have hlt : d.toNat < 2 ^ 7 := Nat.lt_pow_two_of_testBit _ fun i hi => hbit hi
  have hd : d.toNat / 4096 = 0 := by omega
  have text (n : Nat) (cnt : Half) : layerShown d n (textKind cnt) = false :=
    layerShown_disabled (textKind_ne_bitmap cnt) (hbit (by omega))
  have affine (n : Nat) (cnt : Half) : layerShown d n (affineKind cnt) = false :=
    layerShown_disabled (affineKind_ne_bitmap cnt) (hbit (by omega))
  have hfield : field d 0 3 = d.toNat % 8 := by simp [field_eq]
  rw [effectiveRow, hbit (Nat.le_refl 7), if_neg Bool.false_ne_true, hfield]
  obtain h | h | h : d.toNat % 8 = 0 ∨ d.toNat % 8 = 1 ∨ d.toNat % 8 = 2 := by omega
  · rw [h]
    exact modeRow_fb_of_hidden (ks := kindsMode0 s.mem) _ s hd heffect (text ..) (text ..) (text ..) (text ..)
  · rw [h]
    exact modeRow_fb_of_hidden (ks := kindsMode1 s.mem) _ s hd heffect (text ..) (text ..) (affine ..) rfl
  · rw [h]
    exact modeRow_fb_of_hidden (ks := kindsMode2 s.mem) _ s hd heffect rfl rfl (affine ..) (affine ..)

/-! ### The bitmap of mode 3, unscaled (42_backgrounds.md R605, R625) -/

/-- Under the identity matrix, with the origin at the top left, the whole-pixel position of column `x` is (x, L). -/
theorem identity_position {s : State} (hv : s.line.toNat < 160) (hpa : reg16 s.mem 0x020 = 0x0100#16)
    (hpc : reg16 s.mem 0x024 = 0#16) (hx : s.acc0.x = 0#28) (hy : s.acc0.y = BitVec.ofNat 28 (256 * s.line.toNat))
    (x : Nat) :
    (s.acc0.x.toInt + x * (reg16 s.mem 0x020).toInt + 128) / 256 = x ∧
      (s.acc0.y.toInt + x * (reg16 s.mem 0x024).toInt + 128) / 256 = s.line.toNat := by
  have hone : (0x0100#16).toInt = 256 := by decide
  have hnat : (BitVec.ofNat 28 (256 * s.line.toNat)).toNat = 256 * s.line.toNat := Nat.mod_eq_of_lt (by omega)
  have hline : s.acc0.y.toInt = 256 * s.line.toNat := by
    rw [hy, BitVec.toInt_eq_toNat_of_lt (by omega), hnat, Nat.cast_mul, Nat.cast_ofNat]
  rw [hx, hpa, hpc, hone, hline, BitVec.toInt_zero, BitVec.toInt_zero]
  omega

/-- Settles O46: by `identity_position` layer 2 is the row of the bitmap (`bitmapLayers`), which the frame buffer shows by
`modeRow_fb_of_bg2`. -/
theorem mode3ShowsTheBitmap : Obligations.Mode3ShowsTheBitmap := by
  intro s d hv hpa hpc hmosaic hx hy row
  have hexec : exec (.mode3 d) s = .next (modeRow s.mem d s.line.toNat (kindsBitmap .bitmap3) s) :=
    congrArg _ (onVisible_of_lt hv)
  obtain ⟨⟨t, ht, hlb2⟩, -, -⟩ := bitmapLayers s d hv
  obtain rfl : modeRow s.mem d s.line.toNat (kindsBitmap .bitmap3) s = t := by simpa [hexec] using ht
  have hrow : (modeRow s.mem d s.line.toNat (kindsBitmap .bitmap3) s).lb2 = row := by
    refine hlb2.trans (List.map_congr_left fun x hxmem => ?_)
    have hx240 : x < 240 := List.mem_range.1 hxmem
    have hsnap : (reg16 s.mem 0x00C).getLsbD 6 = false := hmosaic
    obtain ⟨hix, hiy⟩ := identity_position hv hpa hpc hx hy x
    simp only [hix, hiy, hsnap, Int.toNat_natCast]
    rw [if_pos (by omega), if_neg Bool.false_ne_true]
  refine ⟨_, hexec, hrow, fun hd heffect => ?_⟩
  rw [modeRow_fb_of_bg2 _ s hd heffect rfl rfl rfl, hrow]
  refine congrArg (s.fb.set s.line.toNat) (List.map_congr_left fun x hxmem => ?_)
  have hxrow : x < row.length := by simpa [row] using hxmem
  rw [List.getD_eq_getElem _ _ hxrow]
  simp only [row, List.getElem_map, List.getElem_range]
  exact if_neg (ne_transparent_of_opaque (opaque_mask _))

end Sys2Proof.Machine
end

section
/-! ## Proofs of the statements about sprites (43_sprites.md) -/

namespace Sys2Proof.Machine

/-! ### Record fields, in the terms of the claims (30_encoding.md R311 to R314) -/

/-- Two bits of a word, compared with a number. -/
theorem field2_eq_iff {v : Half} (lo : Nat) (k : BitVec 2) :
    v.extractLsb' lo 2 = k ↔ v.toNat / 2 ^ lo % 4 = k.toNat := by
  rw [← BitVec.toNat_inj]
  exact Eq.congr_left (field_eq v lo 2)

/-- The kind of a record by division. -/
theorem objKind_eq_iff (a0 : Half) (k : BitVec 2) : objKind a0 = k ↔ a0.toNat / 256 % 4 = k.toNat := field2_eq_iff 8 k

/-- The mode of a record by division. -/
theorem objMode_eq_iff (a0 : Half) (k : BitVec 2) : objMode a0 = k ↔ a0.toNat / 1024 % 4 = k.toNat := field2_eq_iff 10 k

/-- The shape of a record by division. -/
theorem objShape_toNat (a0 : Half) : (objShape a0).toNat = a0.toNat / 16384 := field_top a0 14 2 rfl

/-- The size of a record by division. -/
theorem objSize_toNat (a1 : Half) : (objSize a1).toNat = a1.toNat / 16384 := field_top a1 14 2 rfl

/-- The priority of a record by division. -/
theorem objPrio_toNat (a2 : Half) : (objPrio a2).toNat = a2.toNat / 1024 % 4 := field_eq a2 10 2

/-- The row of a record by division (R323). -/
theorem objY_eq (a0 : Half) : objY a0 = a0.toNat % 256 := by simp [objY, field_eq]

/-! ### The box table (R703) -/

/-- Settles O47: each operation looks its box up by the size. -/
theorem spriteBoxes : Obligations.SpriteBoxes :=
  fun _ => ⟨rfl, rfl, rfl, rfl, rfl, rfl, rfl, rfl, rfl, rfl, rfl, rfl⟩

/-! ### Texels (R706, R707, R716) -/

/-- A rotated texel by floor division (R707). -/
theorem rotatedTexel_eq (m : Memory) (a1 : Half) (w h dw dh bx ry : Nat) :
    let par : Nat → Int := fun j => (m.load16 (0x07000000 + (0x20 * (a1.toNat / 512 % 32) + 0x06 + 8 * j))).toInt
    let dx : Int := (bx : Int) - (dw / 2 : Nat)
    let dy : Int := (ry : Int) - (dh / 2 : Nat)
    let tx := (par 0 * dx + par 1 * dy) / 256 + (w / 2 : Nat)
    let ty := (par 2 * dx + par 3 * dy) / 256 + (h / 2 : Nat)
    rotatedTexel m a1 w h dw dh bx ry = { ok := decide (0 ≤ tx ∧ tx < w ∧ 0 ≤ ty ∧ ty < h), tx := tx, ty := ty } := by
  intro par dx dy tx ty
  have hset : field a1 9 5 = a1.toNat / 512 % 32 := field_eq a1 9 5
  have hround (v : Int) : v >>> (8 : Nat) = v / 256 := Int.shiftRight_eq_div_pow v 8
  simp only [rotatedTexel, objParam, oam16, hset, hround]
  rfl

/-- Settles O48: the two rotated kinds differ in their display box only (`rotatedTexel_eq`), of which the doubled one has its
middle at (w, h). -/
theorem spriteTexels : Obligations.SpriteTexels := by
  intro s a1 w h bx ry par rotated
  have hmiddle (n : Nat) : 2 * n / 2 = n := Nat.mul_div_cancel_left n Nat.two_pos
  refine ⟨rfl, ?_, ?_, rfl⟩
  · show execObjAffine a1 w h bx ry s = _
    rw [execObjAffine, rotatedTexel_eq]
    rfl
  · show execObjAffineDouble a1 w h bx ry s = _
    rw [execObjAffineDouble, rotatedTexel_eq, hmiddle, hmiddle]
    rfl

/-! ### Tiles and pixels (R709, R710, R711, R721) -/

/-- The tile number in the two mappings, with the base tile by division. -/
theorem objTile_eq (oneD : Bool) (a2 : Half) (w k tx ty : Nat) : objTile oneD a2 w k tx ty =
    if oneD then (a2.toNat % 1024 + ty / 8 * (w / 8) * k + tx / 8 * k) % 1024
    else (a2.toNat % 1024 + ty / 8 * 32 + tx / 8 * k) % 1024 := by
  have hbase : field a2 0 10 = a2.toNat % 1024 := by simp [field_eq]
  rw [objTile, tileNum1d, tileNum2d, hbase]

/-- A 4-bit texel: its byte is in the sprite area of VRAM (R711). -/
theorem objPixel4_eq (m : Memory) (oneD : Bool) (a2 : Half) (w tx ty : Nat) :
    let tile := objTile oneD a2 w 1 tx ty
    let b := (m.read (0x06010000 + (tile * 32 + ty % 8 * 4 + tx % 8 / 2) % 0x8000)).toNat
    let idx := if tx % 2 = 0 then b % 16 else b / 16
    objPixel4 m oneD a2 w tx ty = (idx, palColour m (256 + a2.toNat / 4096 * 16 + idx)) := by
  dsimp only
  rw [objPixel4, objOffset4, nibble_eq, field_top a2 12 4 rfl, ← Nat.add_assoc 0x06000000]
  rfl

/-- An 8-bit texel (R721). -/
theorem objPixel8_eq (m : Memory) (oneD : Bool) (a2 : Half) (w tx ty : Nat) :
    let tile := objTile oneD a2 w 2 tx ty
    let idx := (m.read (0x06010000 + (tile * 32 + ty % 8 * 8 + tx % 8) % 0x8000)).toNat
    objPixel8 m oneD a2 w tx ty = (idx, palColour m (256 + idx)) := by
  dsimp only
  rw [objPixel8, objOffset8, ← Nat.add_assoc 0x06000000]

/-- Settles O49: the fetches are `objPixel4_eq` and `objPixel8_eq`, with the tile of the mapping by `objTile_eq`. -/
theorem spriteTilesAndPixels : Obligations.SpriteTilesAndPixels := by
  intro s t a2 w deep tx ty tile1 tile2 tile byte4 idx4 idx8 k
  refine ⟨rfl, rfl, ?_, ?_⟩
  · show execObj4bpp a2 w tx ty s = _
    rw [execObj4bpp, snapshot, objPixel4_eq, objTile_eq]
    rfl
  · show execObj8bpp a2 w tx ty s = _
    rw [execObj8bpp, snapshot, objPixel8_eq, objTile_eq]
    rfl

/-! ### WritePixel (R712, R717, R718, R719) -/

/-- A column off the screen is skipped (R705). -/
theorem writePixelAt_offScreen {x : Nat} (hx : 240 ≤ x) (prio mode : BitVec 2) (c : Half) (s : State) :
    writePixelAt x prio mode c s = s := if_neg (Nat.not_lt.2 hx)

section
variable {s : State} {x : Nat} {i : Info} {prio : BitVec 2} (hx : x < 240) (h5 : s.lb5[x]? = some i)
  (h4 : x < s.lb4.length) (mode : BitVec 2) (c : Half)
include hx h5 h4

/-- A column of the screen takes what `writePixel` makes of its entries. -/
theorem writePixelAt_onScreen : writePixelAt x prio mode c s =
    { s with
      lb4 := s.lb4.set x (writePixel prio mode c (s.lb4[x], i)).1,
      lb5 := s.lb5.set x (writePixel prio mode c (s.lb4[x], i)).2 } := by
  rw [writePixelAt, if_pos hx, List.getElem?_eq_getElem h4, h5]

/-- A pixel of a priority that is not worse replaces the info entry, and the colour unless it is an object-window pixel. -/
theorem writePixelAt_of_le (hp : prio.toNat ≤ i.prio.toNat) : writePixelAt x prio mode c s =
    { s with
      lb4 := if mode = 2#2 then s.lb4 else s.lb4.set x c,
      lb5 := s.lb5.set x (infoOf prio mode) } := by
  rw [writePixelAt_onScreen hx h5 h4, writePixel, if_pos hp]
  split
  · rw [List.set_getElem_self h4]
  · rfl

/-- A pixel of a worse priority changes nothing. -/
theorem writePixelAt_of_lt (hp : i.prio.toNat < prio.toNat) : writePixelAt x prio mode c s = s := by
  obtain ⟨h5len, rfl⟩ := List.getElem?_eq_some_iff.1 h5
  rw [writePixelAt_onScreen hx h5 h4, writePixel, if_neg (Nat.not_le.2 hp), List.set_getElem_self h4,
    List.set_getElem_self h5len]

end

/-- Settles O50: each mode is a `writePixelAt` with the number of the mode. -/
theorem spritePixelWrites : Obligations.SpritePixelWrites := by
  intro s x prio c
  have skip (hx : 240 ≤ x.toNat) (mode : BitVec 2) : Host.Outcome.next (writePixelAt x.toNat prio mode (0#1 ++ c) s) =
      (.next s : Outcome) := congrArg _ (writePixelAt_offScreen hx prio mode _ s)
  refine ⟨fun hx => ⟨skip hx 0#2, skip hx 1#2, skip hx 2#2⟩, fun i hx h5 h4 => ⟨fun hp => ?_, fun hp => ?_⟩⟩
  · exact ⟨congrArg _ (writePixelAt_of_le hx h5 h4 0#2 _ hp), congrArg _ (writePixelAt_of_le hx h5 h4 1#2 _ hp),
      congrArg _ (writePixelAt_of_le hx h5 h4 2#2 _ hp)⟩
  · exact ⟨congrArg _ (writePixelAt_of_lt hx h5 h4 0#2 _ hp), congrArg _ (writePixelAt_of_lt hx h5 h4 1#2 _ hp),
      congrArg _ (writePixelAt_of_lt hx h5 h4 2#2 _ hp)⟩

/-! ### The sprite pass, column by column (R700, R701, R714) -/

section
variable (m : Memory) (d : Half) (l : Nat)

/-- A record acts on each column alone (log entry 19). -/
theorem spriteRecord_getElem? (r x : Nat) (cells : List SpriteCell) :
    (spriteRecord m d l r cells)[x]? = cells[x]?.map (recordColumn m d l r x) := by
  rw [spriteRecord, List.getElem?_map, List.getElem?_zipIdx, Option.map_map, Nat.zero_add]
  rfl

/-- So do records one after another. -/
theorem spriteRecords_getElem? (x : Nat) (rs : List Nat) (cells : List SpriteCell) :
    (rs.foldl (fun cs r => spriteRecord m d l r cs) cells)[x]? =
      cells[x]?.map fun cell => rs.foldl (fun cell r => recordColumn m d l r x cell) cell := by
  induction rs generalizing cells with
  | nil => exact Option.map_id'.symm
  | cons r rs ih => rw [List.foldl_cons, ih, spriteRecord_getElem?, Option.map_map]; rfl

/-- A line is prohibited by a record that is not hidden and has mode 3 or shape 3 (R714). -/
theorem prohibitedLine_iff : prohibitedLine m = true ↔ ∃ r, r < 128 ∧
    (let a0 := m.load16 (0x07000000 + 8 * r);
      a0.toNat / 256 % 4 ≠ 2 ∧ (a0.toNat / 1024 % 4 = 3 ∨ a0.toNat / 16384 = 3)) := by
  have hrecord (a0 : Half) : prohibitedRecord a0 = true ↔
      a0.toNat / 256 % 4 ≠ 2 ∧ (a0.toNat / 1024 % 4 = 3 ∨ a0.toNat / 16384 = 3) := by
    have hshape : objShape a0 = 3#2 ↔ a0.toNat / 16384 = 3 := by rw [← BitVec.toNat_inj, objShape_toNat]; rfl
    simp [prohibitedRecord, objKind_eq_iff, objMode_eq_iff, hshape]
  simp only [prohibitedLine, List.any_eq_true, List.mem_range, hrecord]
  rfl

/-- With OBJ_EN = 1 the pass returns PROHIBITED, or takes the columns through all records, from 127 down to 0. -/
theorem spritePass_enabled {d : Half} (h : d.getLsbD 12 = true) : spritePass m d l =
    if prohibitedLine m then { cells := List.replicate 240 spriteInit, prohibited := true }
    else
      { cells := (List.range 128).reverse.foldl (fun cs r => spriteRecord m d l r cs) (List.replicate 240 spriteInit),
        prohibited := false } := by
  rw [spritePass, h]
  rfl

end

/-- Settles O51: the outcomes of the pass are `spritePass_disabled` and `spritePass_enabled`, column by column by
`spriteRecords_getElem?`. -/
theorem spritePassColumns : Obligations.SpritePassColumns := by
  intro m d l x hx bad
  have hbad : prohibitedLine m = true ↔ bad := prohibitedLine_iff m
  have hinit : (List.replicate 240 spriteInit)[x]? = some spriteInit := List.getElem?_replicate_of_lt hx
  refine ⟨(spritePass_ok m d l).1, fun hoff => ?_, fun hon => ?_, fun hon hgood => ?_⟩
  · rw [spritePass_disabled m hoff]
    exact ⟨rfl, hinit⟩
  · rw [spritePass_enabled m l hon, apply_ite SpriteResult.prohibited, ← hbad]
    simp only [ite_eq_left_iff, Bool.false_eq_true, imp_false, not_not]
  · rw [spritePass_enabled m l hon, if_neg (mt hbad.1 hgood)]
    dsimp only
    rw [spriteRecords_getElem?, hinit, Option.map_some, List.foldl_reverse]
    rfl

/-! ### One record on one column (R702 to R721) -/

/-- The box of a shape and a size, by the table (R703). -/
theorem boxOf?_eq {a0 : Half} (a1 : Half) (h : a0.toNat / 16384 ≠ 3) : boxOf? (objShape a0) (objSize a1) =
    some ((([[8, 16, 32, 64], [16, 32, 32, 64], [8, 8, 16, 32]] : List (List Nat)).getD (a0.toNat / 16384) []).getD
        (a1.toNat / 16384) 0,
      (([[8, 16, 32, 64], [8, 8, 16, 32], [16, 32, 32, 64]] : List (List Nat)).getD (a0.toNat / 16384) []).getD
        (a1.toNat / 16384) 0) := by
  rw [← objShape_toNat] at h ⊢
  rw [← objSize_toNat]
  generalize objShape a0 = shape at h ⊢
  generalize objSize a1 = size
  revert shape size
  decide

/-- The display box by the kind of a record (R716). -/
theorem displayBox_eq (a0 : Half) (w h : Nat) : displayBox (objKind a0) (w, h) =
    (if a0.toNat / 256 % 4 = 3 then 2 * w else w, if a0.toNat / 256 % 4 = 3 then 2 * h else h) := by
  have hdouble : objKind a0 = 3#2 ↔ a0.toNat / 256 % 4 = 3 := objKind_eq_iff a0 3#2
  simp only [displayBox, hdouble]
  split <;> rfl

/-- The texel at a position of the display box: flipped in a regular record, whose texels are all inside the sprite, and
rotated in the others (R706, R707). -/
theorem recordTexel_eq (m : Memory) (a0 a1 : Half) (w h : Nat) {bx ry : Int}
    (hbx : 0 ≤ bx ∧ bx < (displayBox (objKind a0) (w, h)).1) (hry : 0 ≤ ry ∧ ry < (displayBox (objKind a0) (w, h)).2) :
    let kind := a0.toNat / 256 % 4
    let par : Nat → Int := fun j => (m.load16 (0x07000000 + (0x20 * (a1.toNat / 512 % 32) + 0x06 + 8 * j))).toInt
    let dx := bx - ((displayBox (objKind a0) (w, h)).1 / 2 : Nat)
    let dy := ry - ((displayBox (objKind a0) (w, h)).2 / 2 : Nat)
    let tx : Int :=
      if kind = 0 then (if a1.getLsbD 12 then (w : Int) - 1 - bx else bx)
      else (par 0 * dx + par 1 * dy) / 256 + (w / 2 : Nat)
    let ty : Int :=
      if kind = 0 then (if a1.getLsbD 13 then (h : Int) - 1 - ry else ry)
      else (par 2 * dx + par 3 * dy) / 256 + (h / 2 : Nat)
    recordTexel m (objKind a0) a1 (w, h) bx.toNat ry.toNat =
      { ok := decide (0 ≤ tx ∧ tx < w ∧ 0 ≤ ty ∧ ty < h), tx := tx, ty := ty } := by
  have hregular : objKind a0 = 0#2 ↔ a0.toNat / 256 % 4 = 0 := objKind_eq_iff a0 0#2
  intro kind par dx dy tx ty
  by_cases hkind : kind = 0
  · have hbox : displayBox (objKind a0) (w, h) = (w, h) := by rw [hregular.2 hkind]; rfl
    have hinside : 0 ≤ tx ∧ tx < w ∧ 0 ≤ ty ∧ ty < h := by
      rw [hbox] at hbx hry
      dsimp only at hbx hry
      simp only [tx, ty, if_pos hkind]
      split_ifs <;> omega
    rw [recordTexel, if_pos (hregular.2 hkind), regularTexel, Int.toNat_of_nonneg hbx.1, Int.toNat_of_nonneg hry.1,
      decide_eq_true hinside]
    simp only [tx, ty, if_pos hkind]
  · rw [recordTexel, if_neg (mt hregular.1 hkind), rotatedTexel_eq, Int.toNat_of_nonneg hbx.1,
      Int.toNat_of_nonneg hry.1]
    simp only [tx, ty, if_neg hkind]
    rfl

/-- The palette index and the colour of a texel, at the depth of the record (R711, R721). -/
def depthPixel (m : Memory) (oneD deep : Bool) (a2 : Half) (w tx ty : Nat) : Nat × Half :=
  if deep then objPixel8 m oneD a2 w tx ty else objPixel4 m oneD a2 w tx ty

/-- Both depths at once: the tile in units of the depth, the byte by its row and column. -/
theorem depthPixel_eq (m : Memory) (oneD deep : Bool) (a2 : Half) (w tx ty : Nat) :
    let tile := objTile oneD a2 w (if deep then 2 else 1) tx ty
    let b4 := (m.read (0x06010000 + (tile * 32 + ty % 8 * 4 + tx % 8 / 2) % 0x8000)).toNat
    let b8 := (m.read (0x06010000 + (tile * 32 + ty % 8 * 8 + tx % 8) % 0x8000)).toNat
    let idx := if deep then b8 else if tx % 2 = 0 then b4 % 16 else b4 / 16
    depthPixel m oneD deep a2 w tx ty =
      (idx, palColour m (256 + (if deep then 0 else a2.toNat / 4096 * 16) + idx)) := by
  cases deep
  · exact objPixel4_eq m oneD a2 w tx ty
  · exact objPixel8_eq m oneD a2 w tx ty

/-- A pixel of palette index 0 or of a worse priority leaves a column as it is, any other is written in the mode of the
record (R712, R717, R718, R719). -/
theorem writePixel_record (a0 a2 : Half) (idx : Nat) (c : Half) (cell : SpriteCell) :
    (if idx = 0 then cell else writePixel (objPrio a2) (objMode a0) c cell) =
      if idx = 0 ∨ cell.2.prio.toNat < a2.toNat / 1024 % 4 then cell
      else (if a0.toNat / 1024 % 4 = 2 then cell.1 else c,
        { prio := a2.extractLsb' 10 2, mode := a0.extractLsb' 10 2, semi := decide (a0.toNat / 1024 % 4 = 1) }) := by
  have hwindow : objMode a0 = 2#2 ↔ a0.toNat / 1024 % 4 = 2 := objMode_eq_iff a0 2#2
  have hsemi : (objMode a0 == 1#2) = decide (a0.toNat / 1024 % 4 = 1) := decide_eq_decide.2 (objMode_eq_iff a0 1#2)
  rw [ite_or, writePixel, objPrio_toNat, infoOf, hsemi]
  simp only [hwindow, ← Nat.not_lt, ite_not]
  rfl

/-- A record with a box covers a column of a line (R704, R705). -/
abbrev recordCovers (m : Memory) (l r x : Nat) (b : Nat × Nat) : Prop :=
  let ry := ((l : Int) - objY (attr0 m r)) % 256
  let bx := (x : Int) - objX (attr1 m r)
  ry < (displayBox (objKind (attr0 m r)) b).2 ∧ 0 ≤ bx ∧ bx < (displayBox (objKind (attr0 m r)) b).1

/-- The texel that a record with a box shows in a column of a line (R702). -/
def columnTexel (m : Memory) (l r x : Nat) (b : Nat × Nat) : Texel :=
  recordTexel m (objKind (attr0 m r)) (attr1 m r) b ((x : Int) - objX (attr1 m r)).toNat
    (((l : Int) - objY (attr0 m r)) % 256).toNat

/-- A hidden record does nothing (R713). -/
theorem recordColumn_hidden {m : Memory} {r : Nat} (hkind : objKind (attr0 m r) = 2#2) (d : Half) (l x : Nat)
    (cell : SpriteCell) : recordColumn m d l r x cell = cell := if_pos hkind

/-- A shown record writes its pixel where it covers the column with a texel inside the sprite, and does nothing elsewhere. -/
theorem recordColumn_shown {m : Memory} {r : Nat} {b : Nat × Nat} (hkind : objKind (attr0 m r) ≠ 2#2)
    (hbox : boxOf? (objShape (attr0 m r)) (objSize (attr1 m r)) = some b) (d : Half) (l x : Nat) (cell : SpriteCell) :
    let t := columnTexel m l r x b
    let px := depthPixel m (d.getLsbD 6) ((attr0 m r).getLsbD 13) (attr2 m r) b.1 t.tx.toNat t.ty.toNat
    recordColumn m d l r x cell =
      if recordCovers m l r x b ∧ t.ok then
        if px.1 = 0 then cell else writePixel (objPrio (attr2 m r)) (objMode (attr0 m r)) px.2 cell
      else cell := by
  intro t px
  rw [recordColumn, if_neg hkind, hbox, ite_and]
  rfl

/-- Settles O52: a record is hidden (`recordColumn_hidden`) or shown (`recordColumn_shown`); its box is `boxOf?_eq`, its texel
`recordTexel_eq`, its pixel `depthPixel_eq`, written by `writePixel_record`. -/
theorem spriteRecordHits : Obligations.SpriteRecordHits := by
  intro m d l r x cell a0 a1 a2 kind shape size w h dw dh ry bx par dx dy tx ty deep k tile b4 b8 idx colour covered inside
  have hhidden : objKind a0 = 2#2 ↔ kind = 2 := objKind_eq_iff a0 2#2
  have hdisplay : displayBox (objKind a0) (w, h) = (dw, dh) := displayBox_eq a0 w h
  have hcovers : recordCovers m l r x (w, h) ↔ covered := by
    show (((l : Int) - objY a0) % 256 < ((displayBox (objKind a0) (w, h)).2 : Int) ∧
      0 ≤ bx ∧ bx < ((displayBox (objKind a0) (w, h)).1 : Int)) ↔ _
    rw [hdisplay, objY_eq]
  have htexel (hcov : covered) : columnTexel m l r x (w, h) = { ok := decide inside, tx := tx, ty := ty } := by
    obtain ⟨hryh, hbx⟩ := hcov
    have hry : 0 ≤ ry := Int.emod_nonneg _ (by decide)
    have hrecord := recordTexel_eq m a0 a1 w h (bx := bx) (ry := ry) (by rwa [hdisplay])
      (by rw [hdisplay]; exact ⟨hry, hryh⟩)
    rw [hdisplay] at hrecord
    show recordTexel m (objKind a0) a1 (w, h) bx.toNat (((l : Int) - objY a0) % 256).toNat = _
    rw [objY_eq]
    exact hrecord
  have hpixel : depthPixel m (d.getLsbD 6) ((attr0 m r).getLsbD 13) (attr2 m r) w tx.toNat ty.toNat = (idx, colour) := by
    rw [depthPixel_eq, objTile_eq]
    rfl
  have hshown (hk : kind ≠ 2) (hs : shape ≠ 3) :=
    recordColumn_shown (b := (w, h)) (mt hhidden.1 hk) (boxOf?_eq a1 hs) d l x cell
  refine ⟨fun hk => recordColumn_hidden (hhidden.2 hk) d l x cell, fun hk hs hmiss => ?_, fun hk hs hcov hin => ?_⟩
  · refine (hshown hk hs).trans (if_neg fun ⟨hcov, hok⟩ => hmiss ⟨hcovers.1 hcov, ?_⟩)
    rw [htexel (hcovers.1 hcov)] at hok
    exact of_decide_eq_true hok
  · rw [hshown hk hs, htexel hcov, if_pos ⟨hcovers.2 hcov, decide_eq_true hin⟩]
    dsimp only
    rw [hpixel]
    exact writePixel_record a0 a2 idx colour cell

end Sys2Proof.Machine
end

section
/-! ## Proofs of the statements about the compositor (44_compositor.md R800 to R817) -/

namespace Sys2Proof.Machine

/-! ### The window that owns a pixel (R801, R802) -/

/-- A word with one of the window enables is one with a window enabled (10_state.md R111). -/
theorem windows_ne_zero {d : Half} {i : Nat} (h : d.getLsbD i = true) (hi : 13 ≤ i) : d.toNat / 8192 ≠ 0 := by
  intro hz
  have hpow : 2 ^ 13 ≤ 2 ^ i := Nat.pow_le_pow_right (by decide) hi
  rw [getLsbD_eq_div, Nat.div_eq_of_lt (by omega)] at h
  simp at h

/-- The owner of a pixel by the conditions of R801, in the terms of the claims: the converse of `windowOwner_holds`. -/
theorem windowOwner_of_holds (m : Memory) (d : Half) (x l : Nat) (info : Info) :
    let owner := windowOwner m d x l info
    let in0 := d.getLsbD 13 = true ∧ rectHolds (reg16 m 0x040) (reg16 m 0x044) x l
    let in1 := d.getLsbD 14 = true ∧ rectHolds (reg16 m 0x042) (reg16 m 0x046) x l
    let inObj := d.getLsbD 15 = true ∧ info.mode = 2#2
    (d.toNat / 8192 = 0 → owner = .none) ∧ (in0 → owner = .win0) ∧ (¬ in0 → in1 → owner = .win1) ∧
      (¬ in0 → ¬ in1 → inObj → owner = .obj) ∧
      (d.toNat / 8192 ≠ 0 → ¬ in0 → ¬ in1 → ¬ inObj → owner = .out) := by
  intro owner in0 in1 inObj
  have howner : owner =
      if d.toNat / 8192 = 0 then .none else if in0 then .win0 else if in1 then .win1 else if inObj then .obj
      else .out := by
    simp only [owner, in0, in1, inObj, windowOwner, Bool.and_eq_true, inRect_iff, beq_iff_eq, field_top d 13 3 rfl,
      Nat.reducePow]
  rw [howner]
  refine ⟨fun hz => if_pos hz, fun h0 => ?_, fun h0 h1 => ?_, fun h0 h1 hobj => ?_, fun hz h0 h1 hobj => ?_⟩
  · rw [if_neg (windows_ne_zero h0.1 (by decide)), if_pos h0]
  · rw [if_neg (windows_ne_zero h1.1 (by decide)), if_neg h0, if_pos h1]
  · rw [if_neg (windows_ne_zero hobj.1 (by decide)), if_neg h0, if_neg h1, if_pos hobj]
  · rw [if_neg hz, if_neg h0, if_neg h1, if_neg hobj]

/-- Settles O53: the control of the owner that `windowOwner_of_holds` names. -/
theorem windowControls : Obligations.WindowControls := by
  intro m x l info d in0 in1 inObj winin winout
  obtain ⟨hnone, hwin0, hwin1, hobj, hout⟩ := windowOwner_of_holds m d x l info
  exact ⟨fun hz => congrArg (controlOf m) (hnone hz), fun h0 => congrArg (controlOf m) (hwin0 h0),
    fun h0 h1 => congrArg (controlOf m) (hwin1 h0 h1), fun h0 h1 h => congrArg (controlOf m) (hobj h0 h1 h),
    fun hz h0 h1 h => congrArg (controlOf m) (hout hz h0 h1 h)⟩

/-- The window row of the owner leaves the pixel's control (R803, R804, R805, R816, R817). -/
theorem windowOp_owned {k : WindowKind} {x : Byte} {s : State} (h : ownerAt s x.toNat = k) :
    let ctl := windowControl s.mem (reg16 s.mem 0x000) x.toNat s.line.toNat (columnOf s x.toNat).info
    windowOp k (controlOf s.mem k) x s = { s with winMask := ctl.1, winFx := ctl.2 } := by
  subst h
  exact if_pos rfl

/-- Settles O54: the row of the owner that `windowOwner_of_holds` names, by `windowOp_owned`. -/
theorem windowRows : Obligations.WindowRows := by
  intro s x m d l info in0 in1 inObj ctl
  obtain ⟨hnone, hwin0, hwin1, hobj, hout⟩ := windowOwner_of_holds m d x.toNat l info
  exact ⟨fun hz => congrArg _ (windowOp_owned (hnone hz)), fun h0 => congrArg _ (windowOp_owned (hwin0 h0)),
    fun h0 h1 => congrArg _ (windowOp_owned (hwin1 h0 h1)), fun h0 h1 h => congrArg _ (windowOp_owned (hobj h0 h1 h)),
    fun hz h0 h1 h => congrArg _ (windowOp_owned (hout hz h0 h1 h))⟩

/-! ### The two candidates (R806, R807, R815) -/

/-- When a layer is visited: in the order BG3, BG2, BG1, BG0, OBJ (R806). -/
def visitOf (id : LayerId) : Nat := if id = .obj then 4 else 3 - layerIndex id

/-- `a` is in front of `b`: of a smaller priority, or of the same and not visited before `b`. -/
def InFront (a b : Candidate) : Prop := a.p.toNat ≤ b.p.toNat ∧ (b.p = a.p → visitOf b.id ≤ visitOf a.id)

/-- `InFront` is reflexive: a pixel is not behind itself. -/
theorem InFront.refl (a : Candidate) : InFront a a := ⟨le_rfl, fun _ => le_rfl⟩

/-- A pixel of a smaller priority is in front, whatever the order of the visits. -/
theorem InFront.of_lt {a b : Candidate} (h : a.p.toNat < b.p.toNat) : InFront a b :=
  ⟨h.le, fun hp => absurd (congrArg BitVec.toNat hp) h.ne'⟩

/-- A pixel visited later that is not behind `a` by its priority is in front of all that `a` is in front of. -/
theorem InFront.of_visited_later {k a b : Candidate} (hp : k.p.toNat ≤ a.p.toNat) (hv : visitOf b.id < visitOf k.id)
    (h : InFront a b) : InFront k b :=
  ⟨hp.trans h.1, fun _ => hv.le⟩

/-- `cs` are the two frontmost of the pixels `ks`, backed by `bd`. -/
structure FrontTwo (bd : Candidate) (ks : List Candidate) (cs : Candidates) : Prop where
  first_bd : ks = [] → cs.first = bd
  first_mem : ks ≠ [] → cs.first ∈ ks
  first_front : ∀ k ∈ ks, InFront cs.first k
  second_bd : ks.length ≤ 1 → cs.second = bd
  second_mem : 2 ≤ ks.length → cs.second ∈ ks ∧ cs.second.id ≠ cs.first.id
  second_front : ∀ k ∈ ks, k.id ≠ cs.first.id → InFront cs.second k

section
variable {bd k : Candidate} {ks : List Candidate} {cs : Candidates} (h : FrontTwo bd ks cs)
  (hk : ∀ a ∈ ks, visitOf a.id < visitOf k.id)
include h hk

/-- A pixel visited next that is not behind the first displaces it, and the first becomes the second (R806). -/
theorem FrontTwo.displace_first (hp : k.p.toNat ≤ cs.first.p.toNat) :
    FrontTwo bd (ks ++ [k]) { first := k, second := cs.first } where
  first_bd hnil := absurd hnil (by simp)
  first_mem _ := by simp
  first_front := List.forall_mem_append.2
    ⟨fun a ha => .of_visited_later hp (hk a ha) (h.first_front a ha), List.forall_mem_singleton.2 (.refl k)⟩
  second_bd hlen := h.first_bd (List.eq_nil_of_length_eq_zero (by simpa using hlen))
  second_mem hlen := by
    have hmem : cs.first ∈ ks := h.first_mem (by rintro rfl; simp at hlen)
    exact ⟨List.mem_append_left _ hmem, fun hid => (hk _ hmem).ne (congrArg visitOf hid)⟩
  second_front := List.forall_mem_append.2
    ⟨fun a ha _ => h.first_front a ha, List.forall_mem_singleton.2 fun hid => absurd rfl hid⟩

/-- Behind the first but not behind the second, it displaces the second (R806). -/
theorem FrontTwo.displace_second (hks : ks ≠ []) (hfirst : cs.first.p.toNat < k.p.toNat)
    (hp : k.p.toNat ≤ cs.second.p.toNat) : FrontTwo bd (ks ++ [k]) { cs with second := k } where
  first_bd hnil := absurd hnil (by simp)
  first_mem _ := List.mem_append_left _ (h.first_mem hks)
  first_front := List.forall_mem_append.2 ⟨h.first_front, List.forall_mem_singleton.2 (.of_lt hfirst)⟩
  second_bd hlen := absurd (List.eq_nil_of_length_eq_zero (by simpa using hlen)) hks
  second_mem _ := ⟨by simp, fun hid => (hk _ (h.first_mem hks)).ne' (congrArg visitOf hid)⟩
  second_front := List.forall_mem_append.2
    ⟨fun a ha hid => .of_visited_later hp (hk a ha) (h.second_front a ha hid),
      List.forall_mem_singleton.2 fun _ => .refl k⟩

omit hk in
/-- Behind both, it displaces neither (R806). -/
theorem FrontTwo.keep (hlen : 2 ≤ ks.length) (hfirst : cs.first.p.toNat < k.p.toNat)
    (hsecond : cs.second.p.toNat < k.p.toNat) : FrontTwo bd (ks ++ [k]) cs where
  first_bd hnil := absurd hnil (by simp)
  first_mem _ := List.mem_append_left _ (h.first_mem (by rintro rfl; simp at hlen))
  first_front := List.forall_mem_append.2 ⟨h.first_front, List.forall_mem_singleton.2 (.of_lt hfirst)⟩
  second_bd hone := by rw [List.length_append, List.length_singleton] at hone; omega
  second_mem _ := (h.second_mem hlen).imp_left (List.mem_append_left _)
  second_front := List.forall_mem_append.2
    ⟨h.second_front, List.forall_mem_singleton.2 fun _ => .of_lt hsecond⟩

/-- Offering the pixel that is visited next keeps the two frontmost (R806): a pixel behind the first, or behind both,
has that many before it, because it is not behind the backdrop. -/
theorem FrontTwo.offer_next (hbd : k.p.toNat ≤ bd.p.toNat) : FrontTwo bd (ks ++ [k]) (offer k cs) := by
  unfold offer
  split_ifs with hfirst hsecond
  · exact h.displace_first hk hfirst
  · refine h.displace_second hk (fun hnil => ?_) (Nat.lt_of_not_le hfirst) hsecond
    exact hfirst (h.first_bd hnil ▸ hbd)
  · refine h.keep (Nat.lt_of_not_le fun hlen => ?_) (Nat.lt_of_not_le hfirst) (Nat.lt_of_not_le hsecond)
    exact hsecond (h.second_bd hlen ▸ hbd)

end

/-- Pixels that are not behind the backdrop, offered in the order of their visits to a seed of two backdrops, leave
their two frontmost (R806, R807). -/
theorem FrontTwo.foldl_offer {bd : Candidate} (ks : List Candidate) (hbd : ∀ k ∈ ks, k.p.toNat ≤ bd.p.toNat)
    (hvisit : ks.Pairwise fun a b => visitOf a.id < visitOf b.id) :
    FrontTwo bd ks (ks.foldl (fun cs k => offer k cs) { first := bd, second := bd }) := by
  induction ks using List.reverseRecOn with
  | nil => exact ⟨fun _ => rfl, fun h => absurd rfl h, nofun, fun _ => rfl, nofun, nofun⟩
  | append_singleton ks k ih =>
    obtain ⟨hvisitks, -, hlast⟩ := List.pairwise_append.1 hvisit
    obtain ⟨hbdks, hbdk⟩ := List.forall_mem_append.1 hbd
    rw [List.foldl_append]
    exact (ih hbdks hvisitks).offer_next (fun a ha => hlast a ha k List.mem_cons_self) (hbdk k List.mem_cons_self)

/-- The layer pixels of a column in the order in which they are visited (R806). -/
def layerPixels (m : Memory) (q : LineColumn) : List Candidate :=
  [{ c := q.c3, p := cntPrio (bgCnt m 3), id := .bg3 }, { c := q.c2, p := cntPrio (bgCnt m 2), id := .bg2 },
    { c := q.c1, p := cntPrio (bgCnt m 1), id := .bg1 }, { c := q.c0, p := cntPrio (bgCnt m 0), id := .bg0 },
    { c := q.c4, p := q.info.prio, id := .obj }]

/-- Those that are enabled by the mask and not TRANSPARENT (R806). -/
def shownPixels (m : Memory) (mask : BitVec 5) (q : LineColumn) : List Candidate :=
  (layerPixels m q).filter fun k => mask.getLsbD (layerIndex k.id) && k.c != transparent

/-- A layer whose mask bit is 0 is not shown. -/
theorem mask_of_shown {m : Memory} {mask : BitVec 5} {q : LineColumn} {k : Candidate} (h : k ∈ shownPixels m mask q) :
    mask.getLsbD (layerIndex k.id) = true :=
  (Bool.and_eq_true_iff.1 (List.mem_filter.1 h).2).1

/-- The candidates are the shown pixels offered one after another. -/
theorem candidates_eq_foldl (m : Memory) (mask : BitVec 5) (q : LineColumn) :
    candidates m mask q =
      (shownPixels m mask q).foldl (fun cs k => offer k cs) { first := backdrop m, second := backdrop m } := by
  rw [shownPixels, List.foldl_filter]
  rfl

/-- The candidates are the two frontmost of the shown pixels, backed by the backdrop (R806, R807). -/
theorem candidates_frontTwo (m : Memory) (mask : BitVec 5) (q : LineColumn) :
    FrontTwo (backdrop m) (shownPixels m mask q) (candidates m mask q) := by
  rw [candidates_eq_foldl]
  have hvisit : (layerPixels m q).Pairwise fun a b => visitOf a.id < visitOf b.id := by
    simp [layerPixels, visitOf, layerIndex]
  exact .foldl_offer _ (fun k _ => Nat.le_of_lt_succ k.p.isLt) (hvisit.filter _)

/-- The first is one of the pixels or the backdrop. -/
theorem FrontTwo.first_cases {bd : Candidate} {ks : List Candidate} {cs : Candidates} (h : FrontTwo bd ks cs) :
    cs.first = bd ∨ cs.first ∈ ks :=
  (em (ks = [])).imp h.first_bd h.first_mem

/-- So is the second. -/
theorem FrontTwo.second_cases {bd : Candidate} {ks : List Candidate} {cs : Candidates} (h : FrontTwo bd ks cs) :
    cs.second = bd ∨ cs.second ∈ ks :=
  (Nat.lt_or_ge 1 ks.length).symm.imp h.second_bd fun hlen => (h.second_mem hlen).1

/-- Settles O55: the first is in front of the second by `candidates_frontTwo`, a pixel of the two is shown or the
backdrop. -/
theorem candidatesOrdered : Obligations.CandidatesOrdered := by
  intro m mask q
  have h := candidates_frontTwo m mask q
  have shown {k : Candidate} (hk : k = backdrop m ∨ k ∈ shownPixels m mask q) (hid : k.id ≠ .bd) :
      mask.getLsbD (layerIndex k.id) = true := by
    rcases hk with rfl | hk
    · exact absurd rfl hid
    · exact mask_of_shown hk
  refine ⟨?_, List.forall_mem_cons.2 ⟨shown h.first_cases, List.forall_mem_singleton.2 (shown h.second_cases)⟩⟩
  rcases h.second_cases with hbd | hmem
  · rw [hbd]
    exact Nat.le_of_lt_succ (candidates m mask q).first.p.isLt
  · exact (h.first_front _ hmem).1

/-- Settles O56: `candidates_frontTwo`, clause by clause. -/
theorem candidatesAreFrontmost : Obligations.CandidatesAreFrontmost := by
  intro m mask q all shown bd r visit
  obtain ⟨hfirstbd, hfirstmem, hfirst, hsecondbd, hsecondmem, hsecond⟩ := candidates_frontTwo m mask q
  exact ⟨hfirstbd, hfirstmem, hfirst, hsecondbd, hsecondmem, hsecond⟩

/-! ### The effects (R808 to R813) -/

/-- A coefficient is its five bits, at most 16 (R813). -/
theorem coefficient_eq (r : Half) (lo : Nat) : coefficient r lo = min (r.toNat / 2 ^ lo % 32) 16 := by
  rw [coefficient, field_eq]
  rfl

/-- A blended channel is below 32 (R810). -/
theorem alphaChannel_lt (eva evb t b : Nat) : alphaChannel eva evb t b < 32 := Nat.lt_succ_of_le (Nat.min_le_left _ _)

/-- A darkened channel is below 32 (R812). -/
theorem darkenChannel_lt {c : Nat} (evy : Nat) (h : c < 32) : darkenChannel evy c < 32 := (Nat.sub_le _ _).trans_lt h

/-- Settles O59: the coefficients by `coefficient_eq`, the channels by `rgb_channels`. -/
theorem effectChannels : Obligations.EffectChannels := by
  refine ⟨fun m => ⟨?_, coefficient_eq _ 8, ?_⟩, fun eva evb evy t b hevy => ?_⟩
  · simp [evaOf, coefficient_eq]
  · simp [evyOf, coefficient_eq]
  · obtain ⟨hr, hg, hb⟩ := channel_lt t
    exact ⟨rgb_channels _ _ _ (alphaChannel_lt ..) (alphaChannel_lt ..) (alphaChannel_lt ..),
      rgb_channels _ _ _ (brightenChannel_lt hevy hr) (brightenChannel_lt hevy hg) (brightenChannel_lt hevy hb),
      rgb_channels _ _ _ (darkenChannel_lt evy hr) (darkenChannel_lt evy hg) (darkenChannel_lt evy hb)⟩

/-- The channels at the ends of the coefficients' ranges (R810, R811, R812). -/
theorem channel_extremes {t : Nat} (h : t < 32) (b : Nat) :
    alphaChannel 16 0 t b = t ∧ brightenChannel 0 t = t ∧ darkenChannel 0 t = t ∧ brightenChannel 16 t = 31 ∧
      darkenChannel 16 t = 0 := by
  unfold alphaChannel brightenChannel darkenChannel
  omega

/-- Settles O60: the three channels by `channel_extremes`, the colour by `rgb_of_channels`. -/
theorem effectIdentities : Obligations.EffectIdentities := by
  intro t b ht
  obtain ⟨hr, hg, hb⟩ := channel_lt t
  obtain ⟨hra, hr0, hrd, hr31, hrz⟩ := channel_extremes hr (chanR b)
  obtain ⟨hga, hg0, hgd, hg31, hgz⟩ := channel_extremes hg (chanG b)
  obtain ⟨hba, hb0, hbd, hb31, hbz⟩ := channel_extremes hb (chanB b)
  refine ⟨?_, ?_, ?_, ?_, ?_⟩
  · rw [alpha, hra, hga, hba, rgb_of_channels t ht]
  · rw [brighten, hr0, hg0, hb0, rgb_of_channels t ht]
  · rw [darken, hrd, hgd, hbd, rgb_of_channels t ht]
  · rw [brighten, hr31, hg31, hb31]; rfl
  · rw [darken, hrz, hgz, hbz]; rfl

/-- `ApplyEffect` before the selected effect, in the terms of the claims (R808, R809). -/
theorem effectOr_eq (m : Memory) (fx : Bool) (info : Info) (cs : Candidates) (c : Half) :
    effectOr m fx info cs c =
      if fx = false then cs.first.c
      else if cs.first.id = .obj ∧ (info.mode = 1#2 ∨ info.mode = 2#2) then
        alpha (evaOf m) (evbOf m) cs.first.c cs.second.c
      else c := by
  simp [effectOr, forcedBlend, forcedColour]

/-- An effect row on a visible line writes its pixel (R809, R814). -/
theorem effectOp_eq {s : State} (hv : s.line.toNat < 160) (x : Byte) (c : Half) :
    effectOp x c s =
      setFbPixel s.line.toNat x.toNat
        (effectOr s.mem s.winFx (columnOf s x.toNat).info (candidates s.mem s.winMask (columnOf s x.toNat)) c) s :=
  onVisible_of_lt hv

/-- EFF_FORCED_ALPHA on a visible line writes the blend where its condition holds (R808). -/
theorem execEffForcedAlpha_forced {s : State} (hv : s.line.toNat < 160) {x : Byte} (h : forcedAt s x.toNat = true) :
    execEffForcedAlpha x s =
      .next (setFbPixel s.line.toNat x.toNat (forcedColour s.mem (candidatesAt s x.toNat)) s) := by
  rw [execEffForcedAlpha, if_pos h, onVisible_of_lt hv]
  rfl

/-- Settles O57: the rows by `effectOp_eq` and `effectOr_eq`, the forced blend by `forcedAt_iff`. -/
theorem effectPixels : Obligations.EffectPixels := by
  intro s bld x hv _ m info cs blended forced t1 t2 shows row
  have hrow (c : Half) : (.next (effectOp x c s) : Outcome) = .next (row c) := by
    rw [effectOp_eq hv, effectOr_eq]
    rfl
  exact ⟨hrow _, hrow _, hrow _, hrow _, fun h => execEffForcedAlpha_forced hv ((forcedAt_iff s x.toNat).2 h)⟩

/-! ### A pixel of a composed row (R800, R809) -/

/-- `ApplyEffect` in the terms of the claims: the effect of BLDCNT[7:6] comes last (R809). -/
theorem applyEffect_eq (m : Memory) (bld : Half) (fx : Bool) (info : Info) (cs : Candidates) :
    applyEffect m bld fx info cs = effectOr m fx info cs
      (if bld.toNat / 64 % 4 = 0 then noneColour cs
      else if bld.toNat / 64 % 4 = 1 then alphaColour m bld cs
      else if bld.toNat / 64 % 4 = 2 then brightenColour m bld cs
      else darkenColour m bld cs) := by
  have hfield : field bld 6 2 = bld.toNat / 64 % 4 := field_eq ..
  rw [applyEffect, hfield]
  congr 1
  split
  next h => rw [if_pos h]
  next h => simp [h]
  next h => simp [h]
  next h0 h1 h2 => rw [if_neg h0, if_neg h1, if_neg h2]

/-- The columns of a row. -/
theorem columns_getElem? {x : Nat} (h : x < 240) (f : Nat → Half) : (columns f)[x]? = some (f x) := by
  simp [columns, h]

/-- Settles O58: the row of a mode is composed column by column (`modeRow_fb_composed`), each pixel by `applyEffect_eq`
and `effectOr_eq`. -/
theorem composedPixels : Obligations.ComposedPixels := by
  intro s d i hv hrow hi hpass
  obtain ⟨ks, hexec⟩ := exec_mode hv d i hi
  refine ⟨_, hexec, fun x hx => ?_⟩
  intro m q ctl cs bld t1 t2 blended
  have hpixel : composePixel m d s.line.toNat x q = effectOr m ctl.2 q.info cs _ := applyEffect_eq ..
  rw [modeRow_fb_composed _ _ _ _ _ hpass, List.getD_eq_getElem?_getD, List.getElem?_set_self hrow, Option.getD_some,
    columns_getElem? hx, hpixel, effectOr_eq]
  rfl

end Sys2Proof.Machine
end

section
/-! ## Proof of the statement about the checks of a transaction (60_exceptions.md R907) -/

namespace Sys2Proof.Machine

/-! ### A command at the head of the schedule (30_encoding.md R335, R340) -/

/-- A command that decodes to no operation is rejected as R335 says for its cause. -/
theorem command_error {bytes : List Byte} {err : DecodeError} {s : State} (h : decode bytes = .error err) :
    command bytes s = .next (rejectCommand err s) := by
  simp [command, h]

section
variable {s : State} {bytes : List Byte} {rest : List Input} (hs : s.schedule = .command bytes :: rest)
include hs

/-- A step whose move is such a command rejects it. -/
theorem step_rejected {err : DecodeError} (hd : decode bytes = .error err) :
    step s = .next (rejectCommand err { s with schedule := rest }) :=
  (step_head hs rfl).trans (command_error hd)

/-- A step whose move is a transaction that begins with the checks begins with them. -/
theorem step_checked {i : Instr} {a : Addr} {w : Width} (k : State → State) (hd : decode bytes = .ok i)
    (hi : isScript i = true) (hexec : ∀ u, exec i u = .next (busChecked a w k u)) :
    step s = .next (busChecked a w k { s with schedule := rest }) :=
  (step_head hs rfl).trans ((command_ok hd hi).trans (hexec _))

end

/-! ### The transactions of a supported width (30_encoding.md R302) -/

/-- The command codes of the transactions of a width: its read, its write and, of a word, the compare-and-set (R302). -/
def codesOfWidth : Width → List Half
  | .byte => [0x0#16, 0x4#16]
  | .half => [0x1#16, 0x5#16]
  | .word => [0x2#16, 0x6#16, 0xA#16]

/-- Whatever its command code and its data, a transaction of a supported width makes the checks of its address and width
before all else. -/
theorem step_transaction (w : Width) {s : State} {c : Half} {a : Addr} {d e : Word} {rest : List Input}
    (hc : c ∈ codesOfWidth w) (hs : s.schedule = .command (busFrame c a d e).bytes :: rest) :
    ∃ k, step s = .next (busChecked a w k { s with schedule := rest }) := by
  obtain ⟨hrd8, hrd16, hrd32, -, hwr8, hwr16, hwr32, -, -, -, hcas32, -⟩ := commandCodes a d e
  cases w with
  | byte =>
    obtain rfl | rfl : c = 0x0#16 ∨ c = 0x4#16 := by simpa [codesOfWidth] using hc
    · exact ⟨_, step_checked hs _ hrd8 rfl fun _ => rfl⟩
    · exact ⟨_, step_checked hs _ hwr8 rfl fun _ => rfl⟩
  | half =>
    obtain rfl | rfl : c = 0x1#16 ∨ c = 0x5#16 := by simpa [codesOfWidth] using hc
    · exact ⟨_, step_checked hs _ hrd16 rfl fun _ => rfl⟩
    · exact ⟨_, step_checked hs _ hwr16 rfl fun _ => rfl⟩
  | word =>
    obtain rfl | rfl | rfl : c = 0x2#16 ∨ c = 0x6#16 ∨ c = 0xA#16 := by simpa [codesOfWidth] using hc
    · exact ⟨_, step_checked hs _ hrd32 rfl fun _ => rfl⟩
    · exact ⟨_, step_checked hs _ hwr32 rfl fun _ => rfl⟩
    · exact ⟨_, step_checked hs _ hcas32 rfl fun _ => rfl⟩

section
variable (w : Width) {s : State} {c : Half} {a : Addr} {d e : Word} {rest : List Input}

/-- A transaction outside the windows is refused, also at a misaligned address. -/
theorem step_transaction_outside (hc : c ∈ codesOfWidth w)
    (hs : s.schedule = .command (busFrame c a d e).bytes :: rest) (hout : ¬ insideWindow a.toNat (widthBytes w)) :
    step s = .next (State.afterRefusal { s with schedule := rest }) := by
  obtain ⟨k, hstep⟩ := step_transaction w hc hs
  rw [hstep, busChecked_eq_afterRefusal hout]

/-- A misaligned transaction inside the windows faults. -/
theorem step_transaction_misaligned (hc : c ∈ codesOfWidth w)
    (hs : s.schedule = .command (busFrame c a d e).bytes :: rest) (hin : insideWindow a.toNat (widthBytes w))
    (ha : a.toNat % widthBytes w ≠ 0) :
    step s = .next (State.afterFault { s with schedule := rest } (.misaligned a (widthBytes w))) := by
  obtain ⟨k, hstep⟩ := step_transaction w hc hs
  rw [hstep, busChecked_eq_afterFault hin ha]

end

/-- Settles O11: the code alone decides that a command is illegal or of an unsupported width (`commandCodes`,
`step_rejected`); every other transaction begins with the checks of its address (`step_transaction`). -/
theorem transactionChecks : Obligations.TransactionChecks := by
  intro s a d e rest
  obtain ⟨-, -, -, h3, -, -, -, h7, h8, h9, -, hB, -, -, hE, hF⟩ := commandCodes a d e
  refine ⟨fun c hc hs => ?illegal, fun c hc hs => ?unsupported,
    fun c hc hout hs => step_transaction_outside .byte hc hs hout,
    fun c hc hs => ⟨step_transaction_outside .half hc hs, step_transaction_misaligned .half hc hs⟩,
    fun c hc hs => ⟨step_transaction_outside .word hc hs, step_transaction_misaligned .word hc hs⟩⟩
  case illegal =>
    obtain rfl | rfl | rfl | rfl : c = 0x3#16 ∨ c = 0x7#16 ∨ c = 0xE#16 ∨ c = 0xF#16 := by simpa using hc
    exacts [step_rejected hs h3, step_rejected hs h7, step_rejected hs hE, step_rejected hs hF]
  case unsupported =>
    obtain rfl | rfl | rfl : c = 0x8#4 ∨ c = 0x9#4 ∨ c = 0xB#4 := by simpa using hc
    exacts [step_rejected hs h8, step_rejected hs h9, step_rejected hs hB]

end Sys2Proof.Machine
end

section
/-! ## Proof of the statement about what the bus agent and the host leave alone (70_reset_and_hazards.md R1005) -/

namespace Sys2Proof.Machine

/-! ### What a transaction may change (40_register_interface.md R407, 60_exceptions.md R901, R902) -/

/-- WriteMask keeps the three low bits of the byte of the flags, as one field. -/
theorem maskedByte_flags (m : Memory) (b : Byte) :
    maskedByte m 0x04000004 b &&& 0x07#8 = m.read 0x04000004 &&& 0x07#8 := by
  refine BitVec.eq_of_getLsbD_eq fun i hi => ?_
  rw [BitVec.getLsbD_and, BitVec.getLsbD_and]
  obtain h3 | h3 := Nat.lt_or_ge i 3
  · rw [maskedByte_flag m b h3]
  · have hhigh : (0x07#8).getLsbD i = false := by interval_cases i <;> rfl
    rw [hhigh, Bool.and_false, Bool.and_false]

/-- `t` differs from `s` in nothing but memory, the accumulators, the fault record, the refusal mark and the answer, and
not in the bits of memory that the Engine owns. -/
structure EngineKept (s t : State) : Prop where
  frame : t = { s with
    mem := t.mem, acc0 := t.acc0, acc1 := t.acc1, faults := t.faults, refused := t.refused, response := t.response }
  flags : t.statusByte &&& 0x07#8 = s.statusByte &&& 0x07#8
  vcount : vcount t.mem = vcount s.mem

/-- The shutdown flag is none of those. -/
theorem EngineKept.stopRequested {s t : State} (h : EngineKept s t) : t.stopRequested = s.stopRequested := by
  rw [h.frame]

/-- A refusal sets the mark. -/
theorem refuse_engineKept (s : State) : EngineKept s (refuse s) := ⟨rfl, rfl, rfl⟩

/-- A StoreFault adds to the record. -/
theorem raiseStoreFault_engineKept (f : StoreFault) (s : State) : EngineKept s (raiseStoreFault f s) := ⟨rfl, rfl, rfl⟩

/-- An answer alone. -/
theorem respond_engineKept (r : Response) (s : State) : EngineKept s (respond r s) := ⟨rfl, rfl, rfl⟩

/-- A bus store, answered by any value: WriteMask keeps what the Engine owns (R407). -/
theorem busStore_engineKept (addr : Addr) (w : Width) (v : Word) (r : Response) {s : State} (hm : s.mem.wf) :
    EngineKept s (respond r (busStore addr w v s)) where
  frame := by
    obtain ⟨a0, a1, he⟩ := busStore_frame addr w v s
    rw [he]
    rfl
  flags := by
    obtain hr | ⟨b, hr⟩ := busStore_read addr w v hm 0x04000004
    · exact congrArg (· &&& 0x07#8) hr
    · exact (congrArg (· &&& 0x07#8) hr).trans (maskedByte_flags s.mem b)
  vcount := (busStore_statusKept addr w v hm).vcount

/-! ### The transactions (40_register_interface.md R400 to R406) -/

/-- A transaction keeps what the Engine owns if what follows its checks does. -/
theorem busChecked_engineKept {addr : Addr} {w : Width} {k : State → State} {s : State} (hk : EngineKept s (k s)) :
    EngineKept s (busChecked addr w k s) := by
  obtain he | he | ⟨-, -, he⟩ := busChecked_cases addr w k s
  · rw [he]; exact refuse_engineKept s
  · rw [he]; exact raiseStoreFault_engineKept _ s
  · rw [he]; exact hk

/-- A bus read. -/
theorem busRead_engineKept (addr : Addr) (w : Width) (s : State) : EngineKept s (busRead addr w s) :=
  busChecked_engineKept (respond_engineKept _ s)

section
variable {s : State} (hm : s.mem.wf)
include hm

/-- A bus write. -/
theorem busWrite_engineKept (addr : Addr) (w : Width) (v : Word) : EngineKept s (busWrite addr w v s) :=
  busChecked_engineKept (busStore_engineKept addr w v .noValue hm)

/-- A compare-and-set, whether it stores or not. -/
theorem busCas_engineKept (addr : Addr) (expected update : Word) : EngineKept s (busCas addr expected update s) := by
  refine busChecked_engineKept ?_
  split
  · exact busStore_engineKept addr .word update (.flag true) hm
  · exact respond_engineKept (.flag false) s

/-- Every transaction of the bus answers a next state in which the Engine is kept. -/
theorem exec_next_engineKept {i : Instr} (hi : isBus i = true) : ∃ t, exec i s = .next t ∧ EngineKept s t := by
  cases i with
  | rd8 a => exact ⟨_, rfl, busRead_engineKept a .byte s⟩
  | rd16 a => exact ⟨_, rfl, busRead_engineKept a .half s⟩
  | rd32 a => exact ⟨_, rfl, busRead_engineKept a .word s⟩
  | wr8 a v => exact ⟨_, rfl, busWrite_engineKept hm a .byte _⟩
  | wr16 a v => exact ⟨_, rfl, busWrite_engineKept hm a .half _⟩
  | wr32 a v => exact ⟨_, rfl, busWrite_engineKept hm a .word v⟩
  | cas32 a expected update => exact ⟨_, rfl, busCas_engineKept hm a expected update⟩
  | _ => exact absurd hi Bool.false_ne_true

/-- What a transaction of the bus answers keeps the Engine. -/
theorem exec_engineKept {i : Instr} {t : State} (hi : isBus i = true) (ht : exec i s = .next t) : EngineKept s t := by
  obtain ⟨u, hu, hkept⟩ := exec_next_engineKept hm hi
  obtain rfl : u = t := Host.Outcome.next.inj (hu.symm.trans ht)
  exact hkept

end

/-! ### The commands of the bus agent and of the host (30_encoding.md R340, 70_reset_and_hazards.md R1005) -/

/-- The commands of the script are LINE, STOP and the transactions. -/
theorem isScript_cases {i : Instr} (h : isScript i = true) : i = .line ∨ i = .stop ∨ isBus i = true := by
  unfold isScript at h
  split at h
  · exact .inl rfl
  · exact .inr (.inl rfl)
  · exact .inr (.inr h)

/-- A row that is no command of the script, given as one, is refused (60_exceptions.md R902). -/
theorem command_refused {bytes : List Byte} {i : Instr} {s : State} (hd : decode bytes = .ok i)
    (hi : isScript i = false) : command bytes s = .next (refuse s) := by
  simp [command, hd, hi]

/-- Everything a command other than LINE can do: STOP sets the shutdown flag, and any other, rejected ones included, keeps
the Engine. -/
theorem command_cases_of_ne_line {bytes : List Byte} {s t : State} (hm : s.mem.wf) (hl : decode bytes ≠ .ok .line)
    (ht : command bytes s = .next t) :
    (decode bytes = .ok .stop ∧ t = { s with stopRequested := true }) ∨ EngineKept s t := by
  obtain ⟨i, hd, hi, hx⟩ | hx | ⟨cmd, addr, hx⟩ := command_cases bytes s
  · have hexec : exec i s = .next t := hx.symm.trans ht
    obtain rfl | rfl | hbus := isScript_cases hi
    · exact absurd hd hl
    · exact .inl ⟨hd, (Host.Outcome.next.inj hexec).symm⟩
    · exact .inr (exec_engineKept hm hbus hexec)
  · obtain rfl := Host.Outcome.next.inj (hx.symm.trans ht)
    exact .inr (refuse_engineKept s)
  · obtain rfl := Host.Outcome.next.inj (hx.symm.trans ht)
    exact .inr (raiseStoreFault_engineKept _ s)

/-- Settles O15: a transaction by `exec_engineKept`; a step whose move is a command performs that command
(`step_head`), which is STOP or keeps the Engine (`command_cases_of_ne_line`) or is refused (`command_refused`). -/
theorem busLeavesTheEngineAlone : Obligations.BusLeavesTheEngineAlone := by
  refine ⟨fun i s t hi ⟨hwf, _⟩ ht => ?transaction, fun s t bytes rest ⟨hwf, _⟩ hs hl ht => ?command,
    fun s bytes rest i hs hd hi => (step_head hs rfl).trans (command_refused hd hi)⟩
  case transaction =>
    obtain ⟨hframe, hflags, hcount⟩ := exec_engineKept hwf hi ht
    exact ⟨hframe, hflags, hcount⟩
  case command =>
    have hcommand : command bytes { s with schedule := rest } = .next t := (step_head hs rfl).symm.trans ht
    obtain ⟨hd, rfl⟩ | hkept := command_cases_of_ne_line (s := { s with schedule := rest }) hwf hl hcommand
    · exact ⟨rfl, rfl, rfl, fun hne => absurd hd hne⟩
    · have hstop : t.stopRequested = s.stopRequested := hkept.stopRequested
      refine ⟨?_, hkept.flags, hkept.vcount, fun _ => hstop⟩
      rw [hstop]
      exact hkept.frame

end Sys2Proof.Machine
end
